-- ==== Sys2Proof/Word.lean ====
section
/-! DEFINITION. The word types of the block: the serial byte, the 24-bit target address, the 32-bit command word
(00_scope.md R6, R8; 30_encoding.md R65). -/

namespace Sys2Proof

/-- A byte, an integer 0 to 255 (00_scope.md R8); also one line symbol (30_encoding.md R60). -/
abbrev Byte := BitVec 8

/-- A target address of a LogicalWrite, `ADDR_W = 24` bits (00_scope.md R6). Also the `arg` field of a command word. -/
abbrev Addr := BitVec 24

/-- A 32-bit word of the command port: a command word or a `LEN` word (30_encoding.md R65, R66). -/
abbrev Word32 := BitVec 32

end Sys2Proof
end

