-- ==== Sys2Proof/Syntax.lean ====
section
/-! DEFINITION. The operations of the block, one constructor per row of spec/opcode_table.json (30_encoding.md R65), and
the beats in which the host presents them on the command port (30_encoding.md R65, R66). -/

namespace Sys2Proof

/-- The eight operations of the block. -/
inductive Instr where
  /-- `ENCB b` (40_encoder.md R80). -/
  | encb (b : Byte)
  /-- `ENCT addr, payload` (40_encoder.md R81). -/
  | enct (addr : Addr) (payload : List Byte)
  /-- `SEND addr, payload` (41_transport.md R95). -/
  | send (addr : Addr) (payload : List Byte)
  /-- `TXW bytes` (41_transport.md R92). -/
  | txw (bytes : List Byte)
  /-- `TXF` (41_transport.md R93). -/
  | txf
  /-- `TXO` (41_transport.md R91). -/
  | txo
  /-- `TXC` (41_transport.md R94). -/
  | txc
  /-- `DLY ms` (41_transport.md R99). -/
  | dly (ms : Addr)
deriving DecidableEq, Repr

/-- One thing presented on the command port: a 32-bit word (command word or `LEN`) or an 8-bit data beat
(30_encoding.md R65, R66). -/
inductive Beat where
  | word (w : Word32)
  | data (b : Byte)
deriving DecidableEq, Repr

end Sys2Proof
end

