-- ==== Sys2Proof/Decode.lean ====
section
/-! DEFINITION. Reading operations from the beats of the command port, and the encoder that writes them
(30_encoding.md R65 to R67). -/

namespace Sys2Proof

/-- The `op` field, bits 31:28 of a command word (30_encoding.md R65). -/
def cwOp (w : Word32) : BitVec 4 := w.extractLsb' 28 4

/-- The `rsv` field, bits 27:24, must be 0 (30_encoding.md R65). -/
def cwRsv (w : Word32) : BitVec 4 := w.extractLsb' 24 4

/-- The `arg` field, bits 23:0 (30_encoding.md R65). -/
def cwArg (w : Word32) : Addr := w.extractLsb' 0 24

/-- Why a command word is illegal: the cases of 30_encoding.md R67. -/
inductive IllegalReason where
  /-- `op = 0x0`. -/
  | opZero
  /-- `op >= 0x9`. -/
  | opReserved
  /-- `rsv != 0`. -/
  | rsvSet
  /-- `op = 0x1` and `arg[23:8] != 0`. -/
  | byteArgWide
  /-- `op` is 0x4, 0x5, 0x6 or 0x7 and `arg != 0`. -/
  | argSet
deriving DecidableEq, Repr

/-- The check of 30_encoding.md R67, made on the command word alone. -/
def illegalReason (w : Word32) : Option IllegalReason :=
  if cwOp w = 0 then some .opZero
  else if 9 ≤ (cwOp w).toNat then some .opReserved
  else if cwRsv w ≠ 0 then some .rsvSet
  else if cwOp w = 1 ∧ (cwArg w).extractLsb' 8 16 ≠ 0 then some .byteArgWide
  else if 4 ≤ (cwOp w).toNat ∧ (cwOp w).toNat ≤ 7 ∧ cwArg w ≠ 0 then some .argSet
  else none

/-- How an operand stream can be broken: the host presents a beat of the other kind than the one due
(30_encoding.md R66 says no other command word may be presented until the operation has ended; log 5). -/
inductive StreamBreach where
  /-- A data beat where the `LEN` word is due. -/
  | dataWhereLengthDue
  /-- A 32-bit word where a data beat is due. -/
  | wordWhereDataDue
deriving DecidableEq, Repr

/-- What the beats at the command port amount to. -/
inductive Decoded where
  /-- A whole operation, and the beats after it. -/
  | instr (i : Instr) (rest : List Beat)
  /-- An illegal command word; no operand stream is taken after it (30_encoding.md R67). -/
  | illegal (why : IllegalReason) (w : Word32) (rest : List Beat)
  /-- A data beat where a command word is due; no operation takes it (log 4). -/
  | stray (rest : List Beat)
  /-- Nothing presented, or the last beat of the operation has not arrived (30_encoding.md R66). -/
  | awaiting
  /-- The operand stream is broken (log 5). -/
  | broken (how : StreamBreach)
deriving DecidableEq, Repr

/-- Taking `n` data beats from the port. -/
inductive Taken where
  | all (bytes : List Byte) (rest : List Beat)
  | short
  | wordMet
deriving DecidableEq, Repr

/-- One more data beat in front of those already taken. -/
def Taken.push (b : Byte) : Taken → Taken
  | .all bytes rest => .all (b :: bytes) rest
  | .short => .short
  | .wordMet => .wordMet

/-- The first `n` beats, if they are all there and all data beats (30_encoding.md R66). -/
def takeData : List Beat → Nat → Taken
  | beats, 0 => .all [] beats
  | [], _ + 1 => .short
  | .word _ :: _, _ + 1 => .wordMet
  | .data b :: beats, n + 1 => (takeData beats n).push b

/-- The operand stream of `ENCT`, `SEND`, `TXW`: one `LEN` word, then `LEN` data beats (30_encoding.md R66). -/
def takeOperands (mk : List Byte → Instr) : List Beat → Decoded
  | [] => .awaiting
  | .data _ :: _ => .broken .dataWhereLengthDue
  | .word len :: beats =>
    match takeData beats len.toNat with
    | .all bytes rest => .instr (mk bytes) rest
    | .short => .awaiting
    | .wordMet => .broken .wordWhereDataDue

/-- The operation a LEGAL command word names, with the operand stream that follows it (30_encoding.md R65). -/
def decodeLegal (w : Word32) (beats : List Beat) : Decoded :=
  match (cwOp w).toNat with
  | 1 => .instr (.encb ((cwArg w).extractLsb' 0 8)) beats
  | 2 => takeOperands (.enct (cwArg w)) beats
  | 3 => takeOperands (.send (cwArg w)) beats
  | 4 => takeOperands .txw beats
  | 5 => .instr .txf beats
  | 6 => .instr .txo beats
  | 7 => .instr .txc beats
  | 8 => .instr (.dly (cwArg w)) beats
  | _ => .illegal .opReserved w beats

/-- What the beats presented on the command port amount to: total, rejecting by name (30_encoding.md R65 to R67). -/
def decodeBeats : List Beat → Decoded
  | [] => .awaiting
  | .data _ :: beats => .stray beats
  | .word w :: beats =>
    match illegalReason w with
    | some why => .illegal why w beats
    | none => decodeLegal w beats

/-- The command word `op[31:28] rsv[27:24] = 0 arg[23:0]` (30_encoding.md R65). -/
def commandWord (op : BitVec 4) (arg : Addr) : Word32 := op ++ (0 : BitVec 4) ++ arg

/-- The operand stream of a payload: `LEN`, then the bytes in list order (30_encoding.md R66). -/
def operandBeats (bytes : List Byte) : List Beat :=
  .word (BitVec.ofNat 32 bytes.length) :: bytes.map .data

/-- The `op` code of an operation (30_encoding.md R65). -/
def Instr.opCode : Instr → BitVec 4
  | .encb _ => 0x1
  | .enct _ _ => 0x2
  | .send _ _ => 0x3
  | .txw _ => 0x4
  | .txf => 0x5
  | .txo => 0x6
  | .txc => 0x7
  | .dly _ => 0x8

/-- The `arg` field of an operation's command word (30_encoding.md R65). -/
def Instr.argField : Instr → Addr
  | .encb b => b.setWidth 24
  | .enct addr _ => addr
  | .send addr _ => addr
  | .txw _ => 0
  | .txf => 0
  | .txo => 0
  | .txc => 0
  | .dly ms => ms

/-- The beats that follow the command word: the operand stream of the three operations that have one (30_encoding.md R65, R66). -/
def Instr.stream : Instr → List Beat
  | .encb _ => []
  | .enct _ payload => operandBeats payload
  | .send _ payload => operandBeats payload
  | .txw bytes => operandBeats bytes
  | .txf => []
  | .txo => []
  | .txc => []
  | .dly _ => []

/-- The beats in which the host presents an operation (30_encoding.md R65, R66). -/
def encode (i : Instr) : List Beat := .word (commandWord i.opCode i.argField) :: i.stream

/-- The beats of an instruction whose bits are numbered as spec/opcode_table.json numbers them: bits 31:0 the command word,
then, for the three operations with an operand stream, bits 63:32 `LEN` and 8 bits for each data beat; every bit from
`nbits` on is 0. DESIGN CHOICE: an illegal command word is presented alone, whatever its `op` and the bits above it, since no
operand stream is taken after it (30_encoding.md R67; log 19). -/
def tableBeats (nbits w : Nat) : List Beat :=
  let v := w % 2 ^ nbits
  let cw : Word32 := BitVec.ofNat 32 v
  let len : Word32 := BitVec.ofNat 32 (v / 2 ^ 32)
  if illegalReason cw = none ∧ 2 ≤ (cwOp cw).toNat ∧ (cwOp cw).toNat ≤ 4 then
    .word cw :: .word len ::
      (List.range len.toNat).map fun k => .data (BitVec.ofNat 8 (v / 2 ^ (64 + 8 * k)))
  else [.word cw]

/-- The instruction the decoder reads from an instruction whose bits, numbered as the opcode table numbers them, are `w`. -/
def decodeTableWord (nbits w : Nat) : Option Instr :=
  match decodeBeats (tableBeats nbits w) with
  | .instr i _ => some i
  | .illegal _ _ _ => none
  | .stray _ => none
  | .awaiting => none
  | .broken _ => none

end Sys2Proof
end

