-- ==== Sys2Proof/Config.lean ====
section
/-! DEFINITION. What one implementation fixes: the OPEN parameters of 00_scope.md R6 and 42_command_layer.md R110, without
values (log 10, log 11), the numbers the source prints, and the free values that answer the environment's draws when no
schedule does (log 3). -/

namespace Sys2Proof

/-- The four bytes of the line code: the asserted and deasserted symbols and the two logical marker bytes
(00_scope.md R6: `SYM_A`, `SYM_D`, `START`, `STOP`). -/
structure LineCode where
  symA : Byte
  symD : Byte
  startMark : Byte
  stopMark : Byte
deriving DecidableEq, Repr, Inhabited

/-- The one constraint on the line code, `SYM_D != SYM_A` (00_scope.md R6). -/
abbrev LineCode.Valid (c : LineCode) : Prop := c.symA ≠ c.symD

/-- The twenty OPEN constants of the Register/Command Layer (42_command_layer.md R110). -/
structure CommandConstants where
  aCsOn : Addr
  vCsOn : Byte
  aCsOff : Addr
  vCsOff : Byte
  aFdata : Addr
  opWren : Byte
  opPp : Byte
  opWrsr : Byte
  opSe : Byte
  opWake : Byte
  srUnlock : Byte
  aSwsid : Addr
  vFifoOn : Byte
  vFifoOff : Byte
  aCpuctl : Addr
  vCpuStop : Byte
  aClk : Addr
  vClkdiv : Byte
  aPwdn : Addr
  vReset : Byte
deriving DecidableEq, Repr, Inhabited

namespace Config

/-- Four bytes nothing is known of, from which `line` is made (log 10). -/
opaque lineSeed : LineCode

/-- The line code of the machine: any four bytes with `SYM_A ≠ SYM_D`; every such choice is some `lineSeed` (log 10). -/
def line : LineCode :=
  if lineSeed.symA = lineSeed.symD then { lineSeed with symD := ~~~lineSeed.symD } else lineSeed

/-- By how much `MAX_PAYLOAD` exceeds its least admitted value (log 10). -/
opaque maxPayloadExtra : Nat

/-- `MAX_PAYLOAD`, an OPEN number `>= 260` (00_scope.md R6, D5). -/
def maxPayload : Nat := 260 + maxPayloadExtra

/-- The command-layer constants of the machine, with no relation among them (42_command_layer.md R110, D22; log 11). -/
opaque commands : CommandConstants

/-- Whether a write or flush succeeds when no schedule says so: a free value for every draw (41_transport.md R92, R93; log 3). -/
opaque freeOk : Nat → Bool

/-- How many bytes a failure or a close lets out when no schedule says so: a free value (41_transport.md R94, R97; log 3). -/
opaque freePrefix : Nat → Nat

/-- How many bytes the drain agent moves at a moment when no schedule says so: a free value (41_transport.md R96; log 3). -/
opaque freeDrain : Nat → Nat

/-- `PAD`, the byte between address and payload (00_scope.md R6). -/
def pad : Byte := 0x00

/-- `PAGE`, the largest chunk (00_scope.md R6). -/
def page : Nat := 256

/-- `SECTOR`, the flash erase-sector size (00_scope.md R6). -/
def sector : Nat := 4096

/-- `T_STATUS`, milliseconds after a status write (00_scope.md R6). -/
def tStatus : Addr := 3

/-- `T_ERASE`, milliseconds after a sector erase (00_scope.md R6). -/
def tErase : Addr := 250

/-- `T_PROG`, milliseconds after a page program (00_scope.md R6). -/
def tProg : Addr := 10

/-- `T_HALT`, milliseconds of cadence of the halt loop (00_scope.md R6). -/
def tHalt : Addr := 1

/-- `MAGIC`, the ASCII letters T, L, N, K (00_scope.md R6, 43_flash_programmer.md R131; byte values PRESUMED by the spec, log 18). -/
def magic : List Byte := [0x54, 0x4C, 0x4E, 0x4B]

/-- `MAGIC_OFF`, the offset of the signature in the image (00_scope.md R6). -/
def magicOff : Nat := 8

/-- The largest image, `2^24` bytes (43_flash_programmer.md R140). -/
def maxImage : Nat := 2 ^ 24

theorem line_valid : line.Valid := by
  unfold line LineCode.Valid
  split
  · next h =>
    simp only [h]
    generalize lineSeed.symD = b
    revert b
    decide
  · next h => exact h

theorem maxPayload_ge : 260 ≤ maxPayload := Nat.le_add_right _ _

end Config

end Sys2Proof
end

