-- ==== Sys2Proof/Machine/State.lean ====
section
/-! DEFINITION. The state of the block as 10_state.md gives it (R10 to R24), the command port (30_encoding.md R65, R66), the
environment's answers (00_scope.md R8 `draw`, log 3), and the state after reset (R31, R170). -/

namespace Sys2Proof.Machine

/-- The faults of the spec (60_exceptions.md R154, R155). Each is the RESULT of an operation, after which the block goes
on: none of them stops the machine. -/
inductive FaultName where
  | illegalCommand
  | emptyPayload
  | payloadTooLong
  | notOpen
  | alreadyOpen
  | sessionFailed
  | transportError
  /-- Host-level, never written by the block (R155). -/
  | invalidFirmware
  /-- Host-level, never written by the block (R155). -/
  | imageTooLarge
deriving DecidableEq, Repr

/-- What failed: `kind` of `EvFail` (10_state.md R22). -/
inductive FailKind where
  | write
  | flush
deriving DecidableEq, Repr

/-- The events of `HIST` (10_state.md R22). -/
inductive Event where
  /-- `EvOpen`. -/
  | opened
  /-- `EvWrite(k, bytes)`: the `k`-th write call accepted `bytes`. -/
  | write (k : Nat) (bytes : List Byte)
  /-- `EvFlush`. -/
  | flush
  /-- `EvWait(ms)`. -/
  | wait (ms : Nat)
  /-- `EvFail(k, kind)`. -/
  | failed (k : Nat) (kind : FailKind)
  /-- `EvClose`. -/
  | closed
deriving DecidableEq, Repr

/-- How the last operation ended, as reported to the host (60_exceptions.md R150, R158). -/
inductive OpResult where
  /-- No operation has ended since reset. -/
  | idle
  /-- The operation ended without fault. -/
  | done
  /-- The operation ended with this fault. -/
  | raised (f : FaultName)
deriving DecidableEq, Repr

/-- The operand registers `OPR` (10_state.md R13). -/
structure Opr where
  op : BitVec 4
  arg : Addr
  len : Word32
  data : List Byte
deriving DecidableEq, Repr

/-- The fault record `FAULT` (10_state.md R21). -/
structure FaultRecord where
  code : BitVec 4
  call : Nat
  addr : Addr
deriving DecidableEq, Repr

/-- The environment's answers still to be given, oldest first, and how many have been given (the model's own field, log 3).
When a schedule is empty the answer is a free value of Config, indexed by `drawn`. -/
structure Env where
  /-- Whether the next writes and flushes succeed (41_transport.md R92, R93). -/
  oks : List Bool
  /-- How many bytes the next failures and closes let out (41_transport.md R94, R97). -/
  prefixes : List Nat
  /-- How many bytes the drain agent moves at its next moments (41_transport.md R96). -/
  drains : List Nat
  /-- How many answers have been given. -/
  drawn : Nat
deriving DecidableEq, Repr

/-- The whole state: the tuple of 10_state.md R10, the result of the last operation, the command port and the environment. -/
structure State where
  /-- `OPR` (R13). -/
  opr : Opr
  /-- `RES` (R14). -/
  res : List Byte
  /-- `TX.open` (R16). -/
  txOpen : Bool
  /-- `TX.err` (R17). -/
  txErr : Bool
  /-- `TX.buf` (R18). -/
  txBuf : List Byte
  /-- `TX.line` (R19). -/
  txLine : List Byte
  /-- `TX.calls` (R20). -/
  txCalls : Nat
  /-- `FAULT` (R21). -/
  fault : FaultRecord
  /-- `HIST` (R22), oldest first. -/
  hist : List Event
  /-- The result of the last operation (60_exceptions.md R150, R158). -/
  result : OpResult
  /-- The beats the host presents and the block has not taken, in the order presented (30_encoding.md R65, R66; log 1). -/
  port : List Beat
  /-- The environment (41_transport.md R90(c); log 3). -/
  env : Env
deriving DecidableEq, Repr

/-- What stops the machine. No fault of the spec does (60_exceptions.md R158); only a host that breaks the command port's
own protocol. -/
inductive Fault where
  /-- Raised by `step` when a data beat is presented where the `LEN` word is due: the spec gives that presentation no
  meaning (30_encoding.md R66; log 5). Safe: the model stops where a block might go on. -/
  | dataWhereLengthDue
  /-- Raised by `step` when a 32-bit word is presented where a data beat is due, against "no other command word may be
  presented until it has ended" (30_encoding.md R66; log 5). Safe: the model stops where a block might go on. -/
  | wordWhereDataDue
deriving DecidableEq, Repr

/-- What the model has no meaning for. -/
inductive Refusal where
  /-- Raised by an arm of `exec` for an instruction without a meaning yet; no arm does. Safe. -/
  | notModelled (mnemonic : String)
deriving DecidableEq, Repr

/-- The state after reset (10_state.md R31, 70_reset_and_hazards.md R170). `OPR` is unspecified there: 0 and [] are the
model's choice (log 6); `result` (log 9), `port` (log 1) and `env` (log 3) likewise. -/
def State.reset : State where
  opr := { op := 0, arg := 0, len := 0, data := [] }
  res := []
  txOpen := false
  txErr := false
  txBuf := []
  txLine := []
  txCalls := 0
  fault := { code := 0, call := 0, addr := 0 }
  hist := []
  result := .idle
  port := []
  env := { oks := [], prefixes := [], drains := [], drawn := 0 }

end Sys2Proof.Machine
end

