-- ==== Sys2Proof/Machine/Flags.lean ====
section
/-! DEFINITION. The status register `STATUS` (10_state.md R24) and the fault codes of `FAULT.code` (60_exceptions.md R155). -/

namespace Sys2Proof.Machine

/-- `STATUS.PENDING`: 1 when `TX.buf != []` (10_state.md R24). -/
def pendingFlag (s : State) : Bool := !s.txBuf.isEmpty

/-- `STATUS`, 8 bits: bit 0 OPEN, bit 1 ERR, bit 2 PENDING, bits 7:3 read as 0 (10_state.md R24). -/
def statusByte (s : State) : Byte :=
  (0 : BitVec 5) ++ BitVec.ofBool (pendingFlag s) ++ BitVec.ofBool s.txErr ++ BitVec.ofBool s.txOpen

/-- The numbers of the faults (60_exceptions.md R155). -/
def faultCode : FaultName → BitVec 4
  | .illegalCommand => 1
  | .emptyPayload => 2
  | .payloadTooLong => 3
  | .notOpen => 4
  | .alreadyOpen => 5
  | .sessionFailed => 6
  | .transportError => 7
  | .invalidFirmware => 8
  | .imageTooLarge => 9

end Sys2Proof.Machine
end

