-- ==== Sys2Proof/Machine/LineCode.lean ====
section
/-! DEFINITION. The line code: the 10-byte block, the WireFrame, the encode table and the reading back of a frame
(30_encoding.md R60 to R64, R68, R69; 40_encoder.md R80 to R85), as functions of the four bytes of the line code. -/

namespace Sys2Proof.Machine

/-- `sym(bit)`: `SYM_A` for 1, `SYM_D` for 0 (00_scope.md R8). -/
def sym (c : LineCode) (bit : Bool) : Byte := if bit then c.symA else c.symD

/-- `ENCB(b)` (40_encoder.md R80): framing symbol, eight data symbols most significant bit first, framing symbol. -/
def encByte (c : LineCode) (b : Byte) : List Byte :=
  [c.symD,
   sym c (b.getLsbD 7), sym c (b.getLsbD 6), sym c (b.getLsbD 5), sym c (b.getLsbD 4),
   sym c (b.getLsbD 3), sym c (b.getLsbD 2), sym c (b.getLsbD 1), sym c (b.getLsbD 0),
   c.symD]

/-- address-high, address-mid, address-low (30_encoding.md R64, 20_memory.md R43). -/
def addressBytes (addr : Addr) : List Byte :=
  [addr.extractLsb' 16 8, addr.extractLsb' 8 8, addr.extractLsb' 0 8]

/-- The logical bytes of a LogicalWrite: START, address, pad, payload, STOP (40_encoder.md R81, `L`). -/
def logicalBytes (c : LineCode) (addr : Addr) (payload : List Byte) : List Byte :=
  c.startMark :: (addressBytes addr ++ [Config.pad] ++ payload ++ [c.stopMark])

/-- `ENCT(addr, payload)` (40_encoder.md R81): the blocks of the logical bytes, with symbol 0 of the first and of the last
block overwritten by `SYM_A` (30_encoding.md R63). -/
def encTransaction (c : LineCode) (addr : Addr) (payload : List Byte) : List Byte :=
  let f0 := (logicalBytes c addr payload).flatMap (encByte c)
  let f1 := f0.set 0 c.symA
  f1.set ((payload.length + 5) * 10) c.symA

/-- `ENCTAB`, the read-only table of 256 blocks (10_state.md R12; log 16). -/
def encTable (c : LineCode) : List (List Byte) :=
  (List.range 256).map fun k => encByte c (BitVec.ofNat 8 k)

/-- An encoder that looks each logical byte up in a table, as 40_encoder.md R82 allows. -/
def encTransactionByTable (table : List (List Byte)) (c : LineCode) (addr : Addr) (payload : List Byte) : List Byte :=
  let f0 := (logicalBytes c addr payload).flatMap fun b => table.getD b.toNat []
  let f1 := f0.set 0 c.symA
  f1.set ((payload.length + 5) * 10) c.symA

/-- Block `k` of a frame: offsets `10k` to `10k + 9` (30_encoding.md R61). -/
def blockAt (f : List Byte) (k : Nat) : List Byte := (f.drop (10 * k)).take 10

/-- The byte a block decodes to: bit `7-i` is 1 exactly when symbol `1+i` is `SYM_A` (30_encoding.md R69). -/
def blockByte (c : LineCode) (blk : List Byte) : Byte :=
  BitVec.ofNat 8 ((List.range 8).foldl (fun acc i => 2 * acc + (if blk[1 + i]? = some c.symA then 1 else 0)) 0)

/-- A byte list is a well-formed WireFrame: the conditions of 30_encoding.md R69, one by one. -/
def isWireFrame (c : LineCode) (f : List Byte) : Bool :=
  let m := f.length / 10
  f.length % 10 == 0 && 70 ≤ f.length
    && f.all (fun x => x == c.symA || x == c.symD)
    && (List.range m).all (fun k => f[10 * k + 9]? == some c.symD)
    && f[0]? == some c.symA
    && (List.range m).all (fun k => k == 0 || k == m - 1 || f[10 * k]? == some c.symD)
    && f[f.length - 10]? == some c.symA
    && blockByte c (blockAt f 0) == c.startMark
    && blockByte c (blockAt f 4) == Config.pad
    && blockByte c (blockAt f (m - 1)) == c.stopMark

/-- The LogicalWrite of a well-formed WireFrame, and none for any other byte list (30_encoding.md R69). -/
def decodeFrame (c : LineCode) (f : List Byte) : Option (Addr × List Byte) :=
  if isWireFrame c f then
    some (blockByte c (blockAt f 1) ++ blockByte c (blockAt f 2) ++ blockByte c (blockAt f 3),
      (List.range (f.length / 10 - 6)).map fun i => blockByte c (blockAt f (5 + i)))
  else none

/-- The blocks of a stream up to and including the first one whose symbol 0 is `SYM_A`, and what follows it. -/
def takeToMarked (c : LineCode) : Nat → List Byte → Option (List Byte × List Byte)
  | 0, _ => none
  | fuel + 1, f =>
    if f.length < 10 then none
    else if f[0]? = some c.symA then some (f.take 10, f.drop 10)
    else (takeToMarked c fuel (f.drop 10)).map fun (blocks, rest) => (f.take 10 ++ blocks, rest)

/-- The first frame of a stream and the rest: the frame ends at the first block after block 0 whose symbol 0 is `SYM_A`
(30_encoding.md R69). What a receiver does with a cut frame is not the spec's, so anything else reads as none. -/
def readFrame (c : LineCode) (stream : List Byte) : Option ((Addr × List Byte) × List Byte) :=
  match takeToMarked c stream.length (stream.drop 10) with
  | none => none
  | some (blocks, rest) => (decodeFrame c (stream.take 10 ++ blocks)).map fun lw => (lw, rest)

end Sys2Proof.Machine
end

