-- ==== Sys2Proof/Machine/Operands.lean ====
section
/-! DEFINITION. The operands of an operation: their latching into `OPR` when the operation arrives (10_state.md R13) and the
operand checks of `ENCT` and `SEND` (40_encoder.md R81). -/

namespace Sys2Proof.Machine

/-- The arrival of an operation writes `OPR` (10_state.md R13, 30_encoding.md R66: `OPR.len = LEN`, `OPR.data` the beats).
DESIGN CHOICE: an operation without an operand stream (`ENCB`, `TXF`, `TXO`, `TXC`, `DLY`), for which the spec gives these two
no value, leaves `OPR.len = 0` and `OPR.data = []` (log 22). -/
def State.latch (s : State) (op : BitVec 4) (arg : Addr) (data : List Byte) : State :=
  { s with opr := { op := op, arg := arg, len := BitVec.ofNat 32 data.length, data := data } }

/-- The operand of `ENCB` in `OPR.arg`: the byte in bits 7:0, bits 23:8 zero (30_encoding.md R65). -/
def byteArg (b : Byte) : Addr := b.setWidth 24

/-- The operand fault of a payload of `ENCT` or `SEND`, if it has one (40_encoder.md R81, 60_exceptions.md R154). -/
def payloadFault (payload : List Byte) : Option FaultName :=
  if payload.length = 0 then some .emptyPayload
  else if Config.maxPayload < payload.length then some .payloadTooLong
  else none

end Sys2Proof.Machine
end

