-- ==== Sys2Proof/Machine/Ops.lean ====
section
/-! DEFINITION. The operations over the state that the meanings share: the environment's draws, how an operation ends and how a
fault is raised (60_exceptions.md R158), the failure step (41_transport.md R97), the drain agent (R96), and the parts of the
transport operations (R91 to R95, R99). -/

namespace Sys2Proof.Machine

/-- The environment's next answer to `draw ok in {true, false}` (41_transport.md R92, R93; log 3). -/
def Env.okNow (e : Env) : Bool :=
  match e.oks with
  | ok :: _ => ok
  | [] => Config.freeOk e.drawn

/-- The environment after one answer about success. -/
def Env.afterOk (e : Env) : Env := { e with oks := e.oks.tail, drawn := e.drawn + 1 }

/-- The environment's next answer to `draw q, a prefix of …`, as a number of bytes (41_transport.md R94, R97; log 3). -/
def Env.prefixNow (e : Env) : Nat :=
  match e.prefixes with
  | k :: _ => k
  | [] => Config.freePrefix e.drawn

/-- The environment after one answer about a prefix. -/
def Env.afterPrefix (e : Env) : Env := { e with prefixes := e.prefixes.tail, drawn := e.drawn + 1 }

/-- How many bytes the drain agent moves at this moment; 0 when it does not act (41_transport.md R96; log 3). -/
def Env.drainNow (e : Env) : Nat :=
  match e.drains with
  | k :: _ => k
  | [] => Config.freeDrain e.drawn

/-- The environment after one drain moment. -/
def Env.afterDrain (e : Env) : Env := { e with drains := e.drains.tail, drawn := e.drawn + 1 }

/-- The operation ends without fault. -/
def State.finish (s : State) : State := { s with result := .done }

/-- An operation ends with fault `f` while its `arg` was `addr`: `FAULT` is written and the fault is the operation's result
(60_exceptions.md R158, 10_state.md R21). Nothing is saved and control goes nowhere: there is no handler (R150). -/
def State.raiseAt (s : State) (addr : Addr) (f : FaultName) : State :=
  { s with
    fault := { code := faultCode f, call := s.txCalls, addr := addr }
    result := .raised f }

/-- TAKING A FAULT, the shared operation of every meaning: `FAULT.addr` is `OPR.arg` (10_state.md R21, 60_exceptions.md R158).
There is no return from it inside the block: the next thing is the host's next operation (R158, R159). -/
def State.raise (s : State) (f : FaultName) : State := s.raiseAt s.opr.arg f

/-- The way on after a failed session, `TXC` then `TXO` (60_exceptions.md R159): the write half of `TXO` (41_transport.md R91). -/
def State.beginSession (s : State) : State :=
  { s with
    txOpen := true
    txErr := false
    txBuf := []
    txCalls := 0
    hist := s.hist ++ [.opened] }

/-- An illegal command word (30_encoding.md R67): `IllegalCommand` and no other effect. `OPR` keeps its value and
`FAULT.addr` is the word's own `arg` field (log 7). -/
def State.takeIllegal (s : State) (w : Word32) (rest : List Beat) : State :=
  { s.raiseAt (cwArg w) .illegalCommand with port := rest }

/-- The beats of an operation are taken from the port: `rest` stands there next (30_encoding.md R66). -/
def State.setPort (s : State) (rest : List Beat) : State := { s with port := rest }

/-- A data beat where a command word is due is passed over: the next 32-bit word presented is read as a command word
(30_encoding.md R67; log 4). -/
def State.passBeat (s : State) (rest : List Beat) : State := { s with port := rest }

/-- The next part of a composite operation runs only when the part before raised nothing: "The first fault raised ends the
SEND; the later lines do not run" (41_transport.md R95). -/
def State.andThen (s : State) (next : State → State) : State :=
  match s.result with
  | .done => next s
  | .idle => s
  | .raised _ => s

/-- `FAIL(k, kind, pending)` with `k = TX.calls` (41_transport.md R97): a prefix of the pending bytes, the environment's
choice, reaches the line and the rest is lost; the session is dead. -/
def State.fail (s : State) (kind : FailKind) (pending : List Byte) : State :=
  State.raise
    { s with
      txLine := s.txLine ++ pending.take s.env.prefixNow
      txBuf := []
      txErr := true
      hist := s.hist ++ [.failed s.txCalls kind]
      env := s.env.afterPrefix }
    .transportError

/-- A moment of the drain agent (41_transport.md R96): while the transport is open, not failed and holds bytes, a prefix of
`TX.buf` moves to `TX.line`; an answer of 0 bytes means that it does not act. It appends nothing to `HIST`. -/
def State.drainMoment (s : State) : State :=
  if s.txOpen && !s.txErr && !s.txBuf.isEmpty then
    { s with
      txLine := s.txLine ++ s.txBuf.take s.env.drainNow
      txBuf := s.txBuf.drop s.env.drainNow
      env := s.env.afterDrain }
  else s

/-- A write call is started: `TX.calls <- TX.calls + 1` (41_transport.md R92). -/
def State.countCall (s : State) : State := { s with txCalls := s.txCalls + 1 }

/-- One answer about success has been used. -/
def State.spendOk (s : State) : State := { s with env := s.env.afterOk }

/-- The transport accepts the bytes of the present call (41_transport.md R92). -/
def State.accept (s : State) (bytes : List Byte) : State :=
  { s with
    txBuf := s.txBuf ++ bytes
    hist := s.hist ++ [.write s.txCalls bytes] }

/-- Every byte of the buffer goes to the line (41_transport.md R93). -/
def State.drainAll (s : State) : State :=
  { s with
    txLine := s.txLine ++ s.txBuf
    txBuf := []
    hist := s.hist ++ [.flush] }

/-- The transport is given up; a prefix of the unflushed bytes leaves, the rest is lost (41_transport.md R94). -/
def State.release (s : State) : State :=
  { s with
    txLine := s.txLine ++ s.txBuf.take s.env.prefixNow
    txBuf := []
    txOpen := false
    hist := s.hist ++ [.closed]
    env := s.env.afterPrefix }

/-- `RES` is written (10_state.md R14). -/
def State.setRes (s : State) (bytes : List Byte) : State := { s with res := bytes }

/-- A wait is recorded (10_state.md R22, 41_transport.md R99). -/
def State.logWait (s : State) (ms : Nat) : State := { s with hist := s.hist ++ [.wait ms] }

/-- `TXW bytes` (41_transport.md R92): refused when closed or failed, in this order (60_exceptions.md R157); then a call is
counted and the environment says whether it succeeds. -/
def writeBytes (bytes : List Byte) (s : State) : State :=
  if s.txOpen = false then s.raise .notOpen
  else if s.txErr = true then s.raise .sessionFailed
  else if s.env.okNow = true then (s.countCall.spendOk.accept bytes).finish
  else s.countCall.spendOk.fail .write (s.txBuf ++ bytes)

/-- `TXF` (41_transport.md R93). -/
def flushBytes (s : State) : State :=
  if s.txOpen = false then s.raise .notOpen
  else if s.txErr = true then s.raise .sessionFailed
  else if s.env.okNow = true then s.spendOk.drainAll.finish
  else s.spendOk.fail .flush s.txBuf

/-- `TXO` (41_transport.md R91). -/
def openTransport (s : State) : State :=
  if s.txOpen = true then s.raise .alreadyOpen else s.beginSession.finish

/-- `TXC` (41_transport.md R94). -/
def closeTransport (s : State) : State :=
  if s.txOpen = false then s.raise .notOpen else s.release.finish

/-- `ENCB b` (40_encoder.md R80). -/
def encodeByte (b : Byte) (s : State) : State := (s.setRes (encByte Config.line b)).finish

/-- `ENCT addr, payload` (40_encoder.md R81): the operand faults first, then `RES` is the frame. -/
def encodeFrame (addr : Addr) (payload : List Byte) (s : State) : State :=
  match payloadFault payload with
  | some f => s.raise f
  | none => (s.setRes (encTransaction Config.line addr payload)).finish

/-- `SEND addr, payload` (41_transport.md R95): `ENCT`, then `TXW` of the frame, then `TXF`; the first fault ends it. -/
def sendFrame (addr : Addr) (payload : List Byte) (s : State) : State :=
  ((encodeFrame addr payload s).andThen
    (writeBytes (encTransaction Config.line addr payload))).andThen flushBytes

/-- `DLY ms` (41_transport.md R99): the wait is recorded, nothing else is written. -/
def recordWait (ms : Addr) (s : State) : State := (s.logWait ms.toNat).finish

end Sys2Proof.Machine
end

