-- ==== Sys2Proof/Machine/Encoder.lean ====
section
/-! DEFINITION. The meanings of the Waveform Encoder operations (40_encoder.md). -/

namespace Sys2Proof.Machine

/-- `ENCB b` (40_encoder.md R80, op 0x1). -/
def execEncb (b : Byte) (s : State) : Host.Outcome State Fault Refusal :=
  .next (encodeByte b (s.latch 0x1#4 (byteArg b) []))

/-- `ENCT addr, payload` (40_encoder.md R81, op 0x2). -/
def execEnct (addr : Addr) (payload : List Byte) (s : State) : Host.Outcome State Fault Refusal :=
  .next (encodeFrame addr payload (s.latch 0x2#4 addr payload))

end Sys2Proof.Machine
end

