-- ==== Sys2Proof/Machine/Transport.lean ====
section
/-! DEFINITION. The meanings of the Transport operations, of the composite `SEND` and of the delay (41_transport.md). -/

namespace Sys2Proof.Machine

/-- `SEND addr, payload` (41_transport.md R95, op 0x3). -/
def execSend (addr : Addr) (payload : List Byte) (s : State) : Host.Outcome State Fault Refusal :=
  .next (sendFrame addr payload (s.latch 0x3#4 addr payload))

/-- `TXW bytes` (41_transport.md R92, op 0x4). -/
def execTxw (bytes : List Byte) (s : State) : Host.Outcome State Fault Refusal :=
  .next (writeBytes bytes (s.latch 0x4#4 0#24 bytes))

/-- `TXF` (41_transport.md R93, op 0x5). -/
def execTxf (s : State) : Host.Outcome State Fault Refusal := .next (flushBytes (s.latch 0x5#4 0#24 []))

/-- `TXO` (41_transport.md R91, op 0x6). -/
def execTxo (s : State) : Host.Outcome State Fault Refusal := .next (openTransport (s.latch 0x6#4 0#24 []))

/-- `TXC` (41_transport.md R94, op 0x7). -/
def execTxc (s : State) : Host.Outcome State Fault Refusal := .next (closeTransport (s.latch 0x7#4 0#24 []))

/-- `DLY ms` (41_transport.md R99, op 0x8). -/
def execDly (ms : Addr) (s : State) : Host.Outcome State Fault Refusal :=
  .next (recordWait ms (s.latch 0x8#4 ms []))

end Sys2Proof.Machine
end

