-- ==== Sys2Proof/Machine/Dispatch.lean ====
section
/-! DEFINITION. One arm per operation. -/

namespace Sys2Proof.Machine

/-- The effect of one operation once it has arrived (spec/opcode_table.json, 40_encoder.md, 41_transport.md). -/
def exec (i : Instr) (s : State) : Host.Outcome State Fault Refusal :=
  match i with
  | .encb b => Sys2Proof.Machine.execEncb b s
  | .enct addr payload => Sys2Proof.Machine.execEnct addr payload s
  | .send addr payload => Sys2Proof.Machine.execSend addr payload s
  | .txw bytes => Sys2Proof.Machine.execTxw bytes s
  | .txf => Sys2Proof.Machine.execTxf s
  | .txo => Sys2Proof.Machine.execTxo s
  | .txc => Sys2Proof.Machine.execTxc s
  | .dly ms => Sys2Proof.Machine.execDly ms s

end Sys2Proof.Machine
end

