-- ==== Sys2Proof/Machine/Step.lean ====
section
/-! DEFINITION. One step of the machine: a moment of the drain agent, then what stands at the command port (30_encoding.md R65
to R67, 41_transport.md R90, R96; log 1, log 2). There is no program counter (10_state.md R15). -/

namespace Sys2Proof.Machine

/-- One step. An operation whose last beat has not arrived does not start (30_encoding.md R66); with nothing presented the
block is idle (60_exceptions.md R166). -/
def step (s : State) : Host.Outcome State Fault Refusal :=
  match decodeBeats s.port with
  | .instr i rest => exec i (s.drainMoment.setPort rest)
  | .illegal _ w rest => .next (s.drainMoment.takeIllegal w rest)
  | .stray rest => .next (s.drainMoment.passBeat rest)
  | .awaiting => .next s.drainMoment
  | .broken .dataWhereLengthDue => .fault .dataWhereLengthDue
  | .broken .wordWhereDataDue => .fault .wordWhereDataDue

/-- `s` with the instruction whose bits are `w` presented next on the command port, before anything already there (log 1). -/
def State.withFetchWord (s : State) (nbits w : Nat) : State :=
  { s with port := tableBeats nbits w ++ s.port }

end Sys2Proof.Machine
end

