-- ==== Sys2Proof/Machine/CommandLayer.lean ====
section
/-! DEFINITION. The Register/Command Layer (42_command_layer.md): host software over the block, each pseudo-instruction a
fixed sequence of `SEND` and `DLY` operations (30_encoding.md R71), and the host that issues operations one at a time
(10_state.md R15, 41_transport.md R90). -/

namespace Sys2Proof.Machine

/-- `cs_assert()` (42_command_layer.md R111). -/
def csAssert (c : CommandConstants) : List Instr := [Instr.send c.aCsOn [c.vCsOn]]

/-- `cs_deassert()` (42_command_layer.md R112). -/
def csDeassert (c : CommandConstants) : List Instr := [Instr.send c.aCsOff [c.vCsOff]]

/-- `issue_opcode(opcode, extra, single_shot)` (42_command_layer.md R113). -/
def issueOpcode (c : CommandConstants) (opcode : Byte) (extra : List Byte) (singleShot : Bool) : List Instr :=
  csAssert c ++
    [Instr.send c.aFdata (if singleShot then [opcode] ++ extra ++ [c.vCsOff] else [opcode] ++ extra)]

/-- `write_enable()` (42_command_layer.md R114). -/
def writeEnable (c : CommandConstants) : List Instr := issueOpcode c c.opWren [] true

/-- `wake()` (42_command_layer.md R121). -/
def wake (c : CommandConstants) : List Instr := issueOpcode c c.opWake [] true

/-- The status write of `clear_protect_status()` after its `write_enable()`, without the delay (42_command_layer.md R115). -/
def statusWrite (c : CommandConstants) : List Instr :=
  issueOpcode c c.opWrsr [c.srUnlock, 0x00] false ++ csDeassert c

/-- `clear_protect_status()` (42_command_layer.md R115). -/
def clearProtectStatus (c : CommandConstants) : List Instr :=
  writeEnable c ++ statusWrite c ++ [Instr.dly Config.tStatus]

/-- The 3-byte flash address inside a command payload, most significant byte first (20_memory.md R46, PRESUMED by the spec; log 18). -/
def flashAddress (address : Addr) : List Byte :=
  [address.extractLsb' 16 8, address.extractLsb' 8 8, address.extractLsb' 0 8]

/-- The erase of `sector_erase(address)` after its `write_enable()`, without the delay (42_command_layer.md R116). -/
def eraseCommand (c : CommandConstants) (address : Addr) : List Instr :=
  issueOpcode c c.opSe (flashAddress address) false ++ csDeassert c

/-- `sector_erase(address)` (42_command_layer.md R116). DESIGN CHOICE: at an address that is not a multiple of 4096, a call outside
the spec (93_implementation_defined.md U18), the expansion is the same (log 24). -/
def sectorErase (c : CommandConstants) (address : Addr) : List Instr :=
  writeEnable c ++ eraseCommand c address ++ [Instr.dly Config.tErase]

/-- The one write that carries opcode, address and data of a page program (42_command_layer.md R117). -/
def programBurst (c : CommandConstants) (address : Addr) (data : List Byte) : Instr :=
  Instr.send c.aFdata ([c.opPp] ++ flashAddress address ++ data)

/-- The program burst of `page_program(address, data)` after its `write_enable()`, bracketed by the FIFO flag inside chip
select, without the delay (42_command_layer.md R117, 70_reset_and_hazards.md R177). -/
def programCommand (c : CommandConstants) (address : Addr) (data : List Byte) : List Instr :=
  csAssert c ++ [Instr.send c.aSwsid [c.vFifoOn], programBurst c address data, Instr.send c.aSwsid [c.vFifoOff]] ++
    csDeassert c

/-- `page_program(address, data)` (42_command_layer.md R117). DESIGN CHOICE: with 0 or more than 256 bytes, which R117 and U18
put outside the spec, the expansion is the same (log 24). -/
def pageProgram (c : CommandConstants) (address : Addr) (data : List Byte) : List Instr :=
  writeEnable c ++ programCommand c address data ++ [Instr.dly Config.tProg]

/-- The chip-reset write of `chip_reset()` and of the halt loop (42_command_layer.md R118, R120, D27). -/
def chipReset (c : CommandConstants) : List Instr := [Instr.send c.aPwdn [c.vReset]]

/-- The CPU-stop write of the halt loop and of `configure_bus_clock()` (42_command_layer.md R118, R119, D27). -/
def cpuStop (c : CommandConstants) : List Instr := [Instr.send c.aCpuctl [c.vCpuStop]]

/-- `force_halt(duration_ms)` (42_command_layer.md R118): the number of iterations `n` is the environment's draw over all
naturals, whatever the duration is (log 14). -/
def forceHalt (c : CommandConstants) (_durationMs n : Nat) : List Instr :=
  (List.replicate n (chipReset c ++ cpuStop c ++ [Instr.dly Config.tHalt])).flatten

/-- `configure_bus_clock()` (42_command_layer.md R119). -/
def configureBusClock (c : CommandConstants) : List Instr := [Instr.send c.aClk [c.vClkdiv]] ++ cpuStop c

/-- The host issues one operation: the drain agent may act before it, then the operation runs to its end
(41_transport.md R90, R96; log 20). -/
def hostIssue (i : Instr) (s : State) : Host.Outcome State Fault Refusal := exec i s.drainMoment

/-- The host issues operations one at a time and stops where one raises a fault: the rest does not run
(60_exceptions.md R158). The answer is the state after the last operation issued. -/
def issueAll : List Instr → State → Host.Outcome State Fault Refusal
  | [], s => .next s
  | i :: rest, s =>
    match hostIssue i s with
    | .next t =>
      match t.result with
      | .done => issueAll rest t
      | .idle => .next t
      | .raised _ => .next t
    | .fault r => .fault r
    | .refused r => .refused r

/-- The bytes an operation puts on the line when nothing fails: a frame for a `SEND`, the raw bytes of a `TXW`. -/
def opFrame : Instr → List Byte
  | .encb _ => []
  | .enct _ _ => []
  | .send addr payload => encTransaction Config.line addr payload
  | .txw bytes => bytes
  | .txf => []
  | .txo => []
  | .txc => []
  | .dly _ => []

/-- How many write calls an operation makes when nothing fails. -/
def opCalls : Instr → Nat
  | .encb _ => 0
  | .enct _ _ => 0
  | .send _ _ => 1
  | .txw _ => 1
  | .txf => 0
  | .txo => 0
  | .txc => 0
  | .dly _ => 0

/-- How many write calls a sequence of operations makes when nothing fails. -/
def callCount (ops : List Instr) : Nat := (ops.map opCalls).sum

end Sys2Proof.Machine
end

