-- ==== Sys2Proof/Machine/Programmer.lean ====
section
/-! DEFINITION. The Flash Programmer, the reference host program (43_flash_programmer.md), with the host's own record `FP`
(10_state.md R28). The block does not execute it; a host does, one operation at a time. -/

namespace Sys2Proof.Machine

/-- The values of `FP.state` (10_state.md R28). -/
inductive ProgState where
  | idle
  | halting
  | clockConfigured
  | flashAwake
  | statusCleared
  | erasing
  | programming
  | resetting
  | done
  | aborted
deriving DecidableEq, Repr

/-- The ProgrammingSession `FP = (state, cursor, last_erased, t0)` (10_state.md R28). -/
structure ProgSession where
  state : ProgState
  cursor : Nat
  lastErased : Option Nat
  /-- Unset until the start of the halt loop. -/
  t0 : Option Nat
deriving DecidableEq, Repr

/-- `FP` at its creation (10_state.md R28). -/
def newProgSession : ProgSession := { state := .idle, cursor := 0, lastErased := none, t0 := none }

/-- One thing the host program does: an update of `FP`, or one operation of the block. -/
inductive HostAction where
  | enter (st : ProgState)
  | setCursor (off : Nat)
  | setErased (off : Nat)
  /-- `FP.t0` is read from the monotonic clock (43_flash_programmer.md R133; log 14). -/
  | readClock (now : Nat)
  | issue (i : Instr)
deriving DecidableEq, Repr

/-- The operations of a pseudo-instruction, as host actions. -/
def issues (ops : List Instr) : List HostAction := ops.map .issue

/-- `magic_ok(fw)` (43_flash_programmer.md R131). -/
def magicOk (fw : List Byte) : Bool :=
  12 ≤ fw.length && (fw.drop Config.magicOff).take 4 == Config.magic

/-- The chunk at offset `off`: `fw[off .. min(off + 256, L))` (43_flash_programmer.md R136). -/
def chunkAt (fw : List Byte) (off : Nat) : List Byte := (fw.drop off).take Config.page

/-- The body of the loop of 43_flash_programmer.md R136 at offset `off`. DESIGN CHOICE: `program` run without `flash` on an image
above 2^24 bytes, which no rule describes, takes the offset modulo 2^24 as the flash address (log 23); `flash` refuses such an
image (R140). -/
def chunkActions (c : CommandConstants) (fw : List Byte) (off : Nat) : List HostAction :=
  [HostAction.setCursor off] ++
  (if off % Config.sector = 0 then
    [HostAction.enter .erasing] ++ issues (sectorErase c (BitVec.ofNat 24 off)) ++ [HostAction.setErased off]
  else []) ++
  [HostAction.enter .programming] ++ issues (pageProgram c (BitVec.ofNat 24 off) (chunkAt fw off))

/-- The loop of 43_flash_programmer.md R136 from offset `off`; `fuel` bounds the number of turns. -/
def chunkLoop (c : CommandConstants) (fw : List Byte) : Nat → Nat → List HostAction
  | 0, _ => []
  | fuel + 1, off =>
    if off < fw.length then chunkActions c fw off ++ chunkLoop c fw fuel (off + Config.page) else []

/-- `program(fw, dur)` (43_flash_programmer.md R138) with the environment's halt count `n` and clock reading `t0` (log 14).
The loop makes at most one turn per byte of the image, so `len(fw)` turns are enough. -/
def programActions (c : CommandConstants) (dur n t0 : Nat) (fw : List Byte) : List HostAction :=
  [HostAction.enter .halting, HostAction.readClock t0] ++ issues (forceHalt c dur n) ++
  [HostAction.enter .clockConfigured] ++ issues (configureBusClock c) ++
  [HostAction.enter .flashAwake] ++ issues (wake c) ++
  [HostAction.enter .statusCleared] ++
  (if 0 < fw.length then issues (clearProtectStatus c) ++ issues (clearProtectStatus c) else []) ++
  chunkLoop c fw fw.length 0 ++
  [HostAction.enter .resetting] ++ issues (chipReset c) ++
  [HostAction.enter .done]

/-- The operations among host actions, in order. -/
def actionOps : List HostAction → List Instr
  | [] => []
  | .issue i :: rest => i :: actionOps rest
  | .enter _ :: rest => actionOps rest
  | .setCursor _ :: rest => actionOps rest
  | .setErased _ :: rest => actionOps rest
  | .readClock _ :: rest => actionOps rest

/-- One update of `FP` by the host, none by an operation of the block (10_state.md R28). -/
def HostAction.update : HostAction → ProgSession → ProgSession
  | .enter st, fp => { fp with state := st }
  | .setCursor off, fp => { fp with cursor := off }
  | .setErased off, fp => { fp with lastErased := some off }
  | .readClock now, fp => { fp with t0 := some now }
  | .issue _, fp => fp

/-- The error of `flash` (60_exceptions.md R150, 43_flash_programmer.md R139, R140). -/
inductive FlashError where
  | invalidFirmware
  | imageTooLarge
  /-- The step in progress, the offset when that step is Erasing or Programming, and the block's `FAULT` record (R139). -/
  | transportError (step : ProgState) (offset : Option Nat) (record : FaultRecord)
  /-- `TXO` of `session` was refused: the transport was not acquired (log 15). -/
  | notAcquired (record : FaultRecord)
deriving DecidableEq, Repr

/-- The answer of `flash`. -/
inductive FlashAnswer where
  | ok
  | err (e : FlashError)
deriving DecidableEq, Repr

/-- What a host program leaves: `FP` if it was created, the block's state, the answer. -/
structure HostEnd where
  session : Option ProgSession
  state : State
  answer : FlashAnswer
deriving DecidableEq, Repr

/-- The offset an error reports: `FP.cursor` when the step is Erasing or Programming (43_flash_programmer.md R139). -/
def errorOffset (fp : ProgSession) : Option Nat :=
  match fp.state with
  | .erasing => some fp.cursor
  | .programming => some fp.cursor
  | .idle => none
  | .halting => none
  | .clockConfigured => none
  | .flashAwake => none
  | .statusCleared => none
  | .resetting => none
  | .done => none
  | .aborted => none

/-- An operation of a host program with what an error at it reports: the step and the offset (43_flash_programmer.md R139). -/
structure LabelledOp where
  step : ProgState
  offset : Option Nat
  op : Instr
deriving DecidableEq, Repr

/-- The operations among host actions, each with the step and offset in progress when it is issued. -/
def labelledOps : List HostAction → ProgSession → List LabelledOp
  | [], _ => []
  | .issue i :: rest, fp => { step := fp.state, offset := errorOffset fp, op := i } :: labelledOps rest fp
  | .enter st :: rest, fp => labelledOps rest ((HostAction.enter st).update fp)
  | .setCursor off :: rest, fp => labelledOps rest ((HostAction.setCursor off).update fp)
  | .setErased off :: rest, fp => labelledOps rest ((HostAction.setErased off).update fp)
  | .readClock now :: rest, fp => labelledOps rest ((HostAction.readClock now).update fp)

/-- The abort of 43_flash_programmer.md R139: no later operation is issued, `FP.state <- Aborted`, and the error names the step,
the offset and the block's `FAULT` record. -/
def abortRun (fp : ProgSession) (s : State) : HostEnd :=
  { session := some { fp with state := .aborted }
    state := s
    answer := .err (.transportError fp.state (errorOffset fp) s.fault) }

/-- The host carries out its actions in order and aborts where an operation raises a fault (43_flash_programmer.md R138, R139). -/
def runActions : List HostAction → ProgSession → State → Host.Outcome HostEnd Fault Refusal
  | [], fp, s => .next { session := some fp, state := s, answer := .ok }
  | .enter st :: rest, fp, s => runActions rest ((HostAction.enter st).update fp) s
  | .setCursor off :: rest, fp, s => runActions rest ((HostAction.setCursor off).update fp) s
  | .setErased off :: rest, fp, s => runActions rest ((HostAction.setErased off).update fp) s
  | .readClock now :: rest, fp, s => runActions rest ((HostAction.readClock now).update fp) s
  | .issue i :: rest, fp, s =>
    match hostIssue i s with
    | .next t =>
      match t.result with
      | .done => runActions rest fp t
      | .idle => .next (abortRun fp t)
      | .raised _ => .next (abortRun fp t)
    | .fault r => .fault r
    | .refused r => .refused r

/-- `program(fw, dur)` run by the host (43_flash_programmer.md R138). -/
def runProgram (c : CommandConstants) (dur n t0 : Nat) (fw : List Byte) (s : State) :
    Host.Outcome HostEnd Fault Refusal :=
  runActions (programActions c dur n t0 fw) newProgSession s

/-- `flash(fw, dur)` (43_flash_programmer.md R130, R140): both checks come before any operation of the block. -/
def flash (c : CommandConstants) (dur n t0 : Nat) (fw : List Byte) (s : State) :
    Host.Outcome HostEnd Fault Refusal :=
  if Config.maxImage < fw.length then .next { session := none, state := s, answer := .err .imageTooLarge }
  else if magicOk fw = false then .next { session := none, state := s, answer := .err .invalidFirmware }
  else runProgram c dur n t0 fw s

/-- The release at the end of `session`, whatever the answer is (43_flash_programmer.md R130). -/
def releaseAfter (e : HostEnd) : Host.Outcome HostEnd Fault Refusal :=
  match hostIssue .txc e.state with
  | .next t => .next { e with state := t }
  | .fault r => .fault r
  | .refused r => .refused r

/-- `session(fw, dur) = TXO ; r = flash(fw, dur) ; TXC ; return r` (43_flash_programmer.md R130). When `TXO` is refused the
transport is not this session's and the session stops there (60_exceptions.md R158; log 15). -/
def flashSession (c : CommandConstants) (dur n t0 : Nat) (fw : List Byte) (s : State) :
    Host.Outcome HostEnd Fault Refusal :=
  match hostIssue .txo s with
  | .next t =>
    match t.result with
    | .done =>
      match flash c dur n t0 fw t with
      | .next e => releaseAfter e
      | .fault r => .fault r
      | .refused r => .refused r
    | .idle => .next { session := none, state := t, answer := .err (.notAcquired t.fault) }
    | .raised _ => .next { session := none, state := t, answer := .err (.notAcquired t.fault) }
  | .fault r => .fault r
  | .refused r => .refused r

end Sys2Proof.Machine
end

