-- ==== Sys2Proof/Safety.lean ====
section
/-! DEFINITION. What counts as a safe run: the invariant of 10_state.md R23 with the agreement of the flags and the history,
the ends of a run (70_reset_and_hazards.md R183), and the host's duties of 70_reset_and_hazards.md R172 to R181 as predicates
over `HIST`. None of the duties is enforced by the block. -/

namespace Sys2Proof.Safety

open Sys2Proof.Machine

/-- What a history says of the transport: held, failed, write calls since the last `EvOpen`. -/
structure SessionView where
  opened : Bool
  failed : Bool
  calls : Nat
deriving DecidableEq, Repr

/-- One event, read as a change of the transport (10_state.md R16, R17, R20, R22). -/
def SessionView.after (v : SessionView) : Event → SessionView
  | .opened => { opened := true, failed := false, calls := 0 }
  | .write _ _ => { v with calls := v.calls + 1 }
  | .flush => v
  | .wait _ => v
  | .failed _ .write => { v with failed := true, calls := v.calls + 1 }
  | .failed _ .flush => { v with failed := true }
  | .closed => { v with opened := false }

/-- The transport as the whole history tells of it, from reset. -/
def sessionView (h : List Event) : SessionView :=
  h.foldl SessionView.after { opened := false, failed := false, calls := 0 }

/-- One event, read as a change of the bytes written in the session (10_state.md R23 (d)). -/
def bytesAfter (w : List Byte) : Event → List Byte
  | .opened => []
  | .write _ bytes => w ++ bytes
  | .flush => w
  | .wait _ => w
  | .failed _ _ => w
  | .closed => w

/-- The bytes of the successful writes since the last `EvOpen`, in order: `W` of 10_state.md R23 (d). -/
def sessionBytes (h : List Event) : List Byte := h.foldl bytesAfter []

/-- The call numbers in a history are the numbers of the calls (10_state.md R20, R22). -/
def callsNumbered (v : SessionView) : List Event → Prop
  | [] => True
  | e :: rest =>
    (match e with
      | .write k _ => k = v.calls + 1
      | .failed k .write => k = v.calls + 1
      | .failed k .flush => k = v.calls
      | .opened => True
      | .flush => True
      | .wait _ => True
      | .closed => True) ∧ callsNumbered (v.after e) rest

/-- The invariant of every reachable state: 10_state.md R23 (a), (b), the part of (d) one state can show, and the agreement of
`TX.open`, `TX.err`, `TX.calls` and the call numbers with the history (R16, R17, R20, R22). -/
structure TransportInv (s : State) : Prop where
  closed_buf : s.txOpen = false → s.txBuf = []
  failed_buf : s.txErr = true → s.txBuf = []
  view : sessionView s.hist = { opened := s.txOpen, failed := s.txErr, calls := s.txCalls }
  numbered : callsNumbered { opened := false, failed := false, calls := 0 } s.hist
  written : s.txOpen = true → s.txErr = false → sessionBytes s.hist <:+ s.txLine ++ s.txBuf

/-- The event is an `EvFail` (10_state.md R22). -/
def isFail : Event → Bool
  | .failed _ _ => true
  | .opened => false
  | .write _ _ => false
  | .flush => false
  | .wait _ => false
  | .closed => false

/-- The run has ended well (70_reset_and_hazards.md R183). -/
def endedWell (s : State) : Prop :=
  s.port = [] ∧ s.txOpen = false ∧ s.txBuf = [] ∧ ∀ e ∈ s.hist, isFail e = false

/-- The run has ended in failure (70_reset_and_hazards.md R183). -/
def endedInFailure (s : State) : Prop :=
  s.port = [] ∧ s.txOpen = false ∧ ∃ e ∈ s.hist, isFail e = true

/-- An event without its call number, for duties that speak of frames only. -/
def shape : Event → Event
  | .write _ bytes => .write 0 bytes
  | .failed _ kind => .failed 0 kind
  | .opened => .opened
  | .flush => .flush
  | .wait ms => .wait ms
  | .closed => .closed

/-- The events an operation leaves when nothing fails, without call numbers (41_transport.md R91 to R95, R99). -/
def opShapes : Instr → List Event
  | .encb _ => []
  | .enct _ _ => []
  | .send addr payload => [.write 0 (encTransaction Config.line addr payload), .flush]
  | .txw bytes => [.write 0 bytes]
  | .txf => [.flush]
  | .txo => [.opened]
  | .txc => [.closed]
  | .dly ms => [.wait ms.toNat]

/-- The events of a sequence of operations when nothing fails. -/
def shapes (ops : List Instr) : List Event := ops.flatMap opShapes

/-- `ops` was carried out at this place of the history: `pre` before it and `post` after it. -/
def Occurs (h : List Event) (pre : List Event) (ops : List Instr) (post : List Event) : Prop :=
  h.map shape = pre ++ shapes ops ++ post

/-- The milliseconds waited before the next write, and whether there is a next write. -/
def waitedBeforeWrite : List Event → Nat × Bool
  | [] => (0, false)
  | .write _ _ :: _ => (0, true)
  | .wait ms :: rest => let (n, b) := waitedBeforeWrite rest; (ms + n, b)
  | .opened :: rest => waitedBeforeWrite rest
  | .flush :: rest => waitedBeforeWrite rest
  | .failed _ _ :: rest => waitedBeforeWrite rest
  | .closed :: rest => waitedBeforeWrite rest

/-- At least `ms` milliseconds are waited before the next write, if there is one (70_reset_and_hazards.md R174). -/
def WaitsBeforeWrite (post : List Event) (ms : Nat) : Prop :=
  (waitedBeforeWrite post).2 = true → ms ≤ (waitedBeforeWrite post).1

/-- R172, flush after every frame: each write is followed at once by a flush or by the failure of one. -/
def FlushAfterEveryFrame (h : List Event) : Prop :=
  ∀ pre k bytes post, h = pre ++ Event.write k bytes :: post →
    (∃ rest, post = Event.flush :: rest) ∨ (∃ j rest, post = Event.failed j .flush :: rest)

/-- R173, write-enable before every mutation: the frames of `write_enable()` stand immediately before those of each status write,
sector erase and page program. -/
def WriteEnableBeforeMutation (c : CommandConstants) (h : List Event) : Prop :=
  (∀ pre post, Occurs h pre (statusWrite c) post → shapes (writeEnable c) <:+ pre) ∧
  (∀ a pre post, Occurs h pre (eraseCommand c a) post → shapes (writeEnable c) <:+ pre) ∧
  (∀ a data pre post, Occurs h pre (programCommand c a data) post → shapes (writeEnable c) <:+ pre)

/-- R174, the fixed delays after each status write, sector erase and page program. -/
def FlashDelays (c : CommandConstants) (h : List Event) : Prop :=
  (∀ pre post, Occurs h pre (statusWrite c) post → WaitsBeforeWrite post Config.tStatus.toNat) ∧
  (∀ a pre post, Occurs h pre (eraseCommand c a) post → WaitsBeforeWrite post Config.tErase.toNat) ∧
  (∀ a data pre post, Occurs h pre (programCommand c a data) post → WaitsBeforeWrite post Config.tProg.toNat)

/-- R174, the cadence of the halt loop: each reset write followed by a CPU-stop write is an iteration of it. -/
def HaltCadence (c : CommandConstants) (h : List Event) : Prop :=
  ∀ pre post, Occurs h pre (chipReset c ++ cpuStop c) post → WaitsBeforeWrite post Config.tHalt.toNat

/-- R174, all four lines of its table. -/
def FixedDelays (c : CommandConstants) (h : List Event) : Prop := FlashDelays c h ∧ HaltCadence c h

/-- The start of the sector an offset lies in (70_reset_and_hazards.md R175). -/
def sectorOf (off : Nat) : Nat := Config.sector * (off / Config.sector)

/-- The event is an `EvWrite` (10_state.md R22). -/
def isWrite : Event → Bool
  | .write _ _ => true
  | .opened => false
  | .flush => false
  | .wait _ => false
  | .failed _ _ => false
  | .closed => false

/-- The writes of a history, in order. -/
def writesOf (h : List Event) : List Event := h.filter isWrite

/-- R175, erase before program, sector by sector: before each program stands an erase of its sector, and the erase's OWN
`EvWait(250)`, which comes after that erase's frames and before any further write (43_flash_programmer.md R141 (c), (g)). -/
def EraseBeforeProgram (c : CommandConstants) (h : List Event) : Prop :=
  ∀ (a : Addr) data pre post, Occurs h pre (programCommand c a data) post →
    ∃ earlier own later,
      pre = earlier ++ shapes (eraseCommand c (BitVec.ofNat 24 (sectorOf a.toNat))) ++ own ++ later ∧
      writesOf own = [] ∧ .wait Config.tErase.toNat ∈ own

/-- One event, read as a change of the events of the session. -/
def eventsAfter (w : List Event) : Event → List Event
  | .opened => []
  | .write k bytes => w ++ [.write k bytes]
  | .flush => w ++ [.flush]
  | .wait ms => w ++ [.wait ms]
  | .failed k kind => w ++ [.failed k kind]
  | .closed => w ++ [.closed]

/-- The events since the last `EvOpen`. -/
def sinceOpen (h : List Event) : List Event := h.foldl eventsAfter []

/-- An operation that mutates flash contents: a status write, a sector erase, a page program (70_reset_and_hazards.md R173). -/
inductive FlashMutation (c : CommandConstants) : List Instr → Prop
  | status : FlashMutation c (statusWrite c)
  | erase (a : Addr) : FlashMutation c (eraseCommand c a)
  | program (a : Addr) (data : List Byte) : FlashMutation c (programCommand c a data)

/-- A command to the flash device: a mutation, a write-enable or the wake (10_state.md R27, 42_command_layer.md R110). -/
inductive FlashCommand (c : CommandConstants) : List Instr → Prop
  | mutation {ops : List Instr} (h : FlashMutation c ops) : FlashCommand c ops
  | writeEnable : FlashCommand c (writeEnable c)
  | wake : FlashCommand c (wake c)

/-- A flashing run of a host: the halt loop (a draw, which may be empty: 42_command_layer.md R118), the bus clock, flash commands,
and the chip reset or not. A halt and bus clock that are repeated are a run without commands. -/
inductive FlashRun (c : CommandConstants) : List Instr → Prop
  | run (n : Nat) (commands : List (List Instr)) (h : ∀ b ∈ commands, FlashCommand c b) :
      FlashRun c (forceHalt c 0 n ++ configureBusClock c ++ commands.flatten)
  | runAndReset (n : Nat) (commands : List (List Instr)) (h : ∀ b ∈ commands, FlashCommand c b) :
      FlashRun c (forceHalt c 0 n ++ configureBusClock c ++ commands.flatten ++ chipReset c)

/-- R176, seize the chip first, in the fixed order: in the session of a flash command the writes before it are, after any earlier
flashing runs, the whole of a halt loop, then the bus clock, then flash commands; the first of these is the wake when the command
mutates the flash. The waits are R174's. DESIGN CHOICE: no write that belongs to no flashing run may stand before a flash
command in its session, which R176 does not say (log 25). -/
def SeizedFirst (c : CommandConstants) (h : List Event) : Prop :=
  ∀ ops pre post, FlashCommand c ops → Occurs h pre ops post →
    ∃ (runs : List (List Instr)) (n : Nat) (before : List (List Instr)),
      (∀ r ∈ runs, FlashRun c r) ∧ (∀ b ∈ before, FlashCommand c b) ∧
      writesOf (sinceOpen pre) =
        writesOf (shapes (runs.flatten ++ forceHalt c 0 n ++ configureBusClock c ++ before.flatten)) ∧
      (FlashMutation c ops → before.head? = some (wake c))

/-- What stands next in a history is `expected`, whole or up to a failure that cuts it short. -/
def Follows (post expected : List Event) : Prop :=
  expected <+: post ∨ ∃ begun kind rest, begun <+: expected ∧ post = begun ++ .failed 0 kind :: rest

/-- R177, FIFO mode brackets the burst, inside chip select: immediately before each burst stand the write-enable, the assert of
select and the write that sets the flag; immediately after it the write that clears the flag and the deassert of select,
cut short only by a failure at that place; then the delay. -/
def FifoBrackets (c : CommandConstants) (h : List Event) : Prop :=
  ∀ a data pre post, 1 ≤ data.length → data.length ≤ Config.page → Occurs h pre [programBurst c a data] post →
    shapes (writeEnable c ++ csAssert c ++ [Instr.send c.aSwsid [c.vFifoOn]]) <:+ pre ∧
    Follows post (shapes ([Instr.send c.aSwsid [c.vFifoOff]] ++ csDeassert c)) ∧
    ∀ rest, post = shapes ([Instr.send c.aSwsid [c.vFifoOff]] ++ csDeassert c) ++ rest →
      WaitsBeforeWrite rest Config.tProg.toNat

/-- R177, the flag is never left set on a path without fault: after each write that sets it come one burst, the write that clears
it and the deassert of select, cut short only by a failure at that place. -/
def FifoNotLeftSet (c : CommandConstants) (h : List Event) : Prop :=
  ∀ pre post, Occurs h pre [Instr.send c.aSwsid [c.vFifoOn]] post →
    ∃ a data, 1 ≤ data.length ∧ data.length ≤ Config.page ∧
      Follows post (shapes ([programBurst c a data, Instr.send c.aSwsid [c.vFifoOff]] ++ csDeassert c))

/-- The single-byte writes of the command layer are different writes, so that a frame tells which of them it is. The spec
assumes no such thing of its constants (42_command_layer.md R110); a duty that reads one frame by itself needs it. -/
def WritesDistinct (c : CommandConstants) : Prop :=
  [(c.aCsOn, c.vCsOn), (c.aCsOff, c.vCsOff), (c.aSwsid, c.vFifoOn), (c.aSwsid, c.vFifoOff),
    (c.aCpuctl, c.vCpuStop), (c.aClk, c.vClkdiv), (c.aPwdn, c.vReset)].Nodup

/-- R180, release on every exit path: at the end of the run no `EvOpen` is left without its `EvClose`. -/
def ReleasedOnExit (h : List Event) : Prop := (sessionView h).opened = false

/-- R181, the forced boundary markers: every write is a well-formed WireFrame (30_encoding.md R62, R63, R69). -/
def FramesMarked (h : List Event) : Prop :=
  ∀ k bytes, .write k bytes ∈ h → isWireFrame Config.line bytes = true

/-- The transport, its line and the history are as before (40_encoder.md R83, 60_exceptions.md R154). -/
structure TransportKept (s t : State) : Prop where
  txOpen : t.txOpen = s.txOpen
  txErr : t.txErr = s.txErr
  txBuf : t.txBuf = s.txBuf
  txLine : t.txLine = s.txLine
  txCalls : t.txCalls = s.txCalls
  hist : t.hist = s.hist

/-- The number of 1 bits of a byte (40_encoder.md R84 (f)). -/
def ones (b : Byte) : Nat := (List.range 8).countP fun i => b.getLsbD i

/-- A command word is illegal: the cases of 30_encoding.md R67, in the rule's own order. -/
def IllegalWord (w : Word32) : Prop :=
  cwOp w = 0 ∨ 9 ≤ (cwOp w).toNat ∨ cwRsv w ≠ 0 ∨
  (cwOp w = 1 ∧ (cwArg w).extractLsb' 8 16 ≠ 0) ∨
  ((cwOp w = 4 ∨ cwOp w = 5 ∨ cwOp w = 6 ∨ cwOp w = 7) ∧ cwArg w ≠ 0)

/-- An operation the Register/Command Layer issues: a `SEND` the encoder admits, or a `DLY` (42_command_layer.md R122). -/
def LayerOp : Instr → Prop
  | .send _ payload => payload ≠ [] ∧ payload.length ≤ Config.maxPayload
  | .dly _ => True
  | .encb _ => False
  | .enct _ _ => False
  | .txw _ => False
  | .txf => False
  | .txo => False
  | .txc => False

/-- The transport is open, not failed and idle: the precondition of `flash` (43_flash_programmer.md R130). -/
structure ReadyTransport (s : State) : Prop where
  txOpen : s.txOpen = true
  txErr : s.txErr = false
  txBuf : s.txBuf = []

end Sys2Proof.Safety
end

