-- ==== Sys2Proof/WellFormed.lean ====
section
/-! DEFINITION. Which operations can be presented on the command port: the `LEN` word of the operand stream has 32 bits
(30_encoding.md R66). Every other operand is bounded by its type. A payload of length 0 or above `MAX_PAYLOAD` is well formed: the
operation runs and raises the fault the spec names (40_encoder.md R81). -/

namespace Sys2Proof

/-- The number of data beats a 32-bit `LEN` word can announce, plus one. -/
def streamBound : Nat := 2 ^ 32

/-- The operation has an encoding: its operand stream, if it has one, fits a 32-bit `LEN` (30_encoding.md R66). -/
abbrev Instr.WellFormed : Instr → Prop
  | .encb _ => True
  | .enct _ payload => payload.length < streamBound
  | .send _ payload => payload.length < streamBound
  | .txw bytes => bytes.length < streamBound
  | .txf => True
  | .txo => True
  | .txc => True
  | .dly _ => True

end Sys2Proof
end

