-- ==== Sys2Proof/Certificates/Slice0/Obligations.lean ====
section
/-! DEFINITION. The statements for the provers. -/

open Sys2Proof Sys2Proof.Machine Sys2Proof.Safety

/-! ## The command port -/

/-- Every well-formed operation, presented as 30_encoding.md R65 and R66 say, is read back whole and with every operand, and
nothing after it is touched. -/
def Obligations.DecodeEncodeRoundTrip : Prop :=
  ∀ (i : Instr) (rest : List Beat), i.WellFormed → decodeBeats (encode i ++ rest) = .instr i rest

/-- The other direction: each operation has one presentation (30_encoding.md R65 to R67: no hint encodings, reserved fields 0). -/
def Obligations.DecodedBeatsAreCanonical : Prop :=
  ∀ (beats : List Beat) (i : Instr) (rest : List Beat), decodeBeats beats = .instr i rest →
    i.WellFormed ∧ beats = encode i ++ rest

/-- Command words written out from 30_encoding.md R65 and the test vectors X20, P1, P2 of 95_test_vectors.md. -/
def Obligations.SampleWordsDecode : Prop :=
  decodeBeats [.word 0x100000FF] = .instr (.encb 0xFF) [] ∧
  decodeBeats [.word 0x20FFFFFF, .word 1, .data 0xFF] = .instr (.enct 0xFFFFFF [0xFF]) [] ∧
  decodeBeats [.word 0x30000602, .word 1, .data 0x05] = .instr (.send 0x000602 [0x05]) [] ∧
  decodeBeats [.word 0x40000000, .word 2, .data 0x12, .data 0x34] = .instr (.txw [0x12, 0x34]) [] ∧
  decodeBeats [.word 0x50000000] = .instr .txf [] ∧
  decodeBeats [.word 0x60000000] = .instr .txo [] ∧
  decodeBeats [.word 0x70000000] = .instr .txc [] ∧
  decodeBeats [.word 0x800000FA] = .instr (.dly 250) [] ∧
  decodeBeats [.word 0x10000100] = .illegal .byteArgWide 0x10000100 [] ∧
  decodeBeats [.word 0x00000000] = .illegal .opZero 0x00000000 [] ∧
  decodeBeats [.word 0x90000000] = .illegal .opReserved 0x90000000 [] ∧
  decodeBeats [.word 0x31000000] = .illegal .rsvSet 0x31000000 [] ∧
  decodeBeats [.word 0x50000001] = .illegal .argSet 0x50000001 []

/-- The decoder rejects a command word exactly in the cases of 30_encoding.md R67, looking at the word alone; every other word
is the start of an operation. -/
def Obligations.IllegalWordsAreExactlyThose : Prop :=
  ∀ (w : Word32) (rest : List Beat),
    (IllegalWord w ↔ ∃ why, decodeBeats (.word w :: rest) = .illegal why w rest) ∧
    (¬ IllegalWord w ↔ ∃ (i : Instr), encode i = .word w :: i.stream)

/-- A step at an illegal command word (30_encoding.md R67): `IllegalCommand` is recorded and reported, the word alone is taken
(the next beat is read as before), and after the drain moment nothing else changes. That `OPR` keeps its value and
`FAULT.addr` is the word's `arg` field is the model's reading (log 7). -/
def Obligations.IllegalWordOnlyRecordsItsFault : Prop :=
  ∀ (s : State) (w : Word32) (rest : List Beat), IllegalWord w → s.port = .word w :: rest →
    step s = .next { s.drainMoment with
      fault := { code := 1, call := s.txCalls, addr := cwArg w }
      result := .raised .illegalCommand
      port := rest }

/-- When the beats at the command port are a whole operation, a step is that operation's effect, after a moment of the drain
agent and with exactly the operation's beats taken from the port (30_encoding.md R66, 41_transport.md R90). -/
def Obligations.StepRunsTheDecodedOperation : Prop :=
  ∀ (s : State) (i : Instr) (rest : List Beat), decodeBeats s.port = .instr i rest →
    step s = exec i (s.drainMoment.setPort rest)

/-- An operation presented by its encoding runs in one step, whatever stands after it. -/
def Obligations.PresentedOperationRuns : Prop :=
  ∀ (s : State) (i : Instr) (rest : List Beat), i.WellFormed → s.port = encode i ++ rest →
    step s = exec i (s.drainMoment.setPort rest)

/-- "The operation starts when the last beat has arrived" (30_encoding.md R66): while a beat of it is missing only the drain
agent acts. -/
def Obligations.OperationWaitsForItsLastBeat : Prop :=
  ∀ (s : State) (i : Instr) (missing : List Beat), i.WellFormed → encode i = s.port ++ missing → missing ≠ [] →
    step s = .next s.drainMoment

/-! ## The line code -/

/-- The ten symbols of a block (30_encoding.md R60, 20_memory.md R44). -/
def Obligations.BlockSymbolBySymbol : Prop :=
  ∀ (c : LineCode) (b : Byte),
    (encByte c b).length = 10 ∧
    (encByte c b)[0]? = some c.symD ∧
    (encByte c b)[9]? = some c.symD ∧
    ∀ i < 8, (encByte c b)[1 + i]? = some (if b.getLsbD (7 - i) then c.symA else c.symD)

/-- `ENCB` is injective because `SYM_A != SYM_D` (40_encoder.md R84 (b)). -/
def Obligations.BlockEncodingInjective : Prop :=
  ∀ c : LineCode, c.Valid → ∀ a b : Byte, encByte c a = encByte c b → a = b

/-- The blocks of a WireFrame, one by one, and its length (30_encoding.md R61, R62, R63, R64; 20_memory.md R43, R45). -/
def Obligations.FrameBlockByBlock : Prop :=
  ∀ (c : LineCode) (addr : Addr) (payload : List Byte),
    (encTransaction c addr payload).length = (payload.length + 6) * 10 ∧
    blockAt (encTransaction c addr payload) 0 = (encByte c c.startMark).set 0 c.symA ∧
    blockAt (encTransaction c addr payload) 1 = encByte c (addr.extractLsb' 16 8) ∧
    blockAt (encTransaction c addr payload) 2 = encByte c (addr.extractLsb' 8 8) ∧
    blockAt (encTransaction c addr payload) 3 = encByte c (addr.extractLsb' 0 8) ∧
    blockAt (encTransaction c addr payload) 4 = encByte c 0x00 ∧
    (∀ i b, payload[i]? = some b → blockAt (encTransaction c addr payload) (5 + i) = encByte c b) ∧
    blockAt (encTransaction c addr payload) (payload.length + 5) = (encByte c c.stopMark).set 0 c.symA

/-- Reading a frame back is the inverse of `ENCT`, for every address and every payload of 1 or more bytes (30_encoding.md R69). -/
def Obligations.FrameDecodesBack : Prop :=
  ∀ c : LineCode, c.Valid → ∀ (addr : Addr) (payload : List Byte), payload ≠ [] →
    decodeFrame c (encTransaction c addr payload) = some (addr, payload)

/-- The well-formed WireFrames of 30_encoding.md R69 are exactly the encodings of LogicalWrites. -/
def Obligations.WireFramesAreTheEncodings : Prop :=
  ∀ c : LineCode, c.Valid → ∀ f : List Byte,
    isWireFrame c f = true ↔ ∃ addr payload, payload ≠ [] ∧ f = encTransaction c addr payload

/-- A receiver that ends a frame at the first marked block after block 0 reads back each frame of a stream and leaves the
rest (30_encoding.md R69). -/
def Obligations.StreamReadsFrameByFrame : Prop :=
  ∀ c : LineCode, c.Valid → ∀ (addr : Addr) (payload rest : List Byte), payload ≠ [] →
    readFrame c (encTransaction c addr payload ++ rest) = some ((addr, payload), rest)

/-- Only the two symbols occur in a frame, and the asserted ones are counted by 40_encoder.md R84 (e), (f). -/
def Obligations.FrameAlphabetAndCount : Prop :=
  ∀ c : LineCode, c.Valid → ∀ (addr : Addr) (payload : List Byte),
    (∀ x ∈ encTransaction c addr payload, x = c.symA ∨ x = c.symD) ∧
    (encTransaction c addr payload).count c.symA =
      2 + ones c.startMark + ones c.stopMark + ((addressBytes addr).map ones).sum + (payload.map ones).sum

/-- A longer payload changes nothing before the old STOP block (40_encoder.md R84 (h)). -/
def Obligations.LongerPayloadKeepsPrefix : Prop :=
  ∀ (c : LineCode) (addr : Addr) (p q : List Byte),
    (encTransaction c addr (p ++ q)).take ((p.length + 5) * 10) =
      (encTransaction c addr p).take ((p.length + 5) * 10)

/-- `ENCTAB[b] = ENCB(b)` for every byte, and an encoder that looks each logical byte up gives the same frame
(40_encoder.md R82). -/
def Obligations.TableEncoderAgrees : Prop :=
  ∀ c : LineCode,
    (encTable c).length = 256 ∧
    (∀ b : Byte, (encTable c)[b.toNat]? = some (encByte c b)) ∧
    ∀ (addr : Addr) (payload : List Byte),
      encTransactionByTable (encTable c) c addr payload = encTransaction c addr payload

/-! ## The operations -/

/-- `ENCB b` completes in every state: `RES` is the block of `b`; the transport, `FAULT`, `HIST` and everything else but `OPR`
is unchanged (40_encoder.md R80). That `OPR.len` and `OPR.data` are 0 and [] is the model's choice (log 22). -/
def Obligations.EncbWritesOnlyRes : Prop :=
  ∀ (b : Byte) (s : State),
    exec (.encb b) s = .next { s with
      opr := { op := 0x1, arg := b.setWidth 24, len := 0, data := [] }
      res := [Config.line.symD,
        sym Config.line (b.getLsbD 7), sym Config.line (b.getLsbD 6),
        sym Config.line (b.getLsbD 5), sym Config.line (b.getLsbD 4),
        sym Config.line (b.getLsbD 3), sym Config.line (b.getLsbD 2),
        sym Config.line (b.getLsbD 1), sym Config.line (b.getLsbD 0),
        Config.line.symD]
      result := .done }

/-- `ENCT addr, payload` (40_encoder.md R81): the frame into `RES` for `1 <= n <= MAX_PAYLOAD` in every state of the transport,
`EmptyPayload` for `n = 0`, `PayloadTooLong` above; nothing else but `OPR` changes. -/
def Obligations.EnctWritesResOrRefuses : Prop :=
  ∀ (addr : Addr) (payload : List Byte) (s : State) (opr : Opr),
    opr = { op := 0x2, arg := addr, len := BitVec.ofNat 32 payload.length, data := payload } →
    (payload = [] →
      exec (.enct addr payload) s = .next { s with
        opr := opr, fault := { code := 2, call := s.txCalls, addr := addr }, result := .raised .emptyPayload }) ∧
    (Config.maxPayload < payload.length →
      exec (.enct addr payload) s = .next { s with
        opr := opr, fault := { code := 3, call := s.txCalls, addr := addr }, result := .raised .payloadTooLong }) ∧
    (1 ≤ payload.length → payload.length ≤ Config.maxPayload →
      exec (.enct addr payload) s = .next { s with
        opr := opr, res := encTransaction Config.line addr payload, result := .done })

/-- `TXO` (41_transport.md R91): refused when the transport is held; otherwise a fresh session begins, and the line, `RES` and
`FAULT` are kept. That `OPR.len` and `OPR.data` are 0 and [] is the model's choice (log 22). -/
def Obligations.TxoOpensOrRefuses : Prop :=
  ∀ (s : State) (opr : Opr), opr = { op := 0x6, arg := 0, len := 0, data := [] } →
    (s.txOpen = true →
      exec .txo s = .next { s with
        opr := opr, fault := { code := 5, call := s.txCalls, addr := 0 }, result := .raised .alreadyOpen }) ∧
    (s.txOpen = false →
      exec .txo s = .next { s with
        opr := opr, txOpen := true, txErr := false, txBuf := [], txCalls := 0
        hist := s.hist ++ [.opened], result := .done })

/-- `TXW bytes` (41_transport.md R92, R97) for every list of bytes, the empty one too: the two refusals, in order; an accepted
write; a failing write, of which any prefix of the pending bytes may have reached the line. -/
def Obligations.TxwAcceptsFailsOrRefuses : Prop :=
  ∀ (bytes : List Byte) (s : State) (opr : Opr),
    opr = { op := 0x4, arg := 0, len := BitVec.ofNat 32 bytes.length, data := bytes } →
    (s.txOpen = false →
      exec (.txw bytes) s = .next { s with
        opr := opr, fault := { code := 4, call := s.txCalls, addr := 0 }, result := .raised .notOpen }) ∧
    (s.txOpen = true → s.txErr = true →
      exec (.txw bytes) s = .next { s with
        opr := opr, fault := { code := 6, call := s.txCalls, addr := 0 }, result := .raised .sessionFailed }) ∧
    (s.txOpen = true → s.txErr = false → s.env.okNow = true →
      exec (.txw bytes) s = .next { s with
        opr := opr, txCalls := s.txCalls + 1, txBuf := s.txBuf ++ bytes
        hist := s.hist ++ [.write (s.txCalls + 1) bytes], result := .done, env := s.env.afterOk }) ∧
    (s.txOpen = true → s.txErr = false → s.env.okNow = false →
      ∃ q, q <+: s.txBuf ++ bytes ∧
      exec (.txw bytes) s = .next { s with
        opr := opr, txCalls := s.txCalls + 1, txLine := s.txLine ++ q, txBuf := [], txErr := true
        hist := s.hist ++ [.failed (s.txCalls + 1) .write]
        fault := { code := 7, call := s.txCalls + 1, addr := 0 }
        result := .raised .transportError, env := s.env.afterOk.afterPrefix })

/-- `TXF` (41_transport.md R93, R97): the two refusals; a flush that drains the buffer to the line; a failing flush. It is not
counted in `TX.calls`. That `OPR.len` and `OPR.data` are 0 and [] is the model's choice (log 22). -/
def Obligations.TxfDrainsFailsOrRefuses : Prop :=
  ∀ (s : State) (opr : Opr), opr = { op := 0x5, arg := 0, len := 0, data := [] } →
    (s.txOpen = false →
      exec .txf s = .next { s with
        opr := opr, fault := { code := 4, call := s.txCalls, addr := 0 }, result := .raised .notOpen }) ∧
    (s.txOpen = true → s.txErr = true →
      exec .txf s = .next { s with
        opr := opr, fault := { code := 6, call := s.txCalls, addr := 0 }, result := .raised .sessionFailed }) ∧
    (s.txOpen = true → s.txErr = false → s.env.okNow = true →
      exec .txf s = .next { s with
        opr := opr, txLine := s.txLine ++ s.txBuf, txBuf := []
        hist := s.hist ++ [.flush], result := .done, env := s.env.afterOk }) ∧
    (s.txOpen = true → s.txErr = false → s.env.okNow = false →
      ∃ q, q <+: s.txBuf ∧
      exec .txf s = .next { s with
        opr := opr, txLine := s.txLine ++ q, txBuf := [], txErr := true
        hist := s.hist ++ [.failed s.txCalls .flush]
        fault := { code := 7, call := s.txCalls, addr := 0 }
        result := .raised .transportError, env := s.env.afterOk.afterPrefix })

/-- `TXC` (41_transport.md R94): refused when the transport is not held; otherwise, in a failed session too, some prefix of the
unflushed bytes leaves, the transport is given up, and `TX.err`, `TX.calls` and `FAULT` are kept. That `OPR.len` and `OPR.data`
are 0 and [] is the model's choice (log 22). -/
def Obligations.TxcReleasesOrRefuses : Prop :=
  ∀ (s : State) (opr : Opr), opr = { op := 0x7, arg := 0, len := 0, data := [] } →
    (s.txOpen = false →
      exec .txc s = .next { s with
        opr := opr, fault := { code := 4, call := s.txCalls, addr := 0 }, result := .raised .notOpen }) ∧
    (s.txOpen = true →
      ∃ q, q <+: s.txBuf ∧
      exec .txc s = .next { s with
        opr := opr, txLine := s.txLine ++ q, txBuf := [], txOpen := false
        hist := s.hist ++ [.closed], result := .done, env := s.env.afterPrefix })

/-- `SEND addr, payload` with an operand or transport refusal, in the order of 60_exceptions.md R157. A `SEND` the transport
refuses has already written `RES` (41_transport.md R95; 95_test_vectors.md X11). -/
def Obligations.SendRefusals : Prop :=
  ∀ (addr : Addr) (payload : List Byte) (s : State) (opr : Opr),
    opr = { op := 0x3, arg := addr, len := BitVec.ofNat 32 payload.length, data := payload } →
    (payload = [] →
      exec (.send addr payload) s = .next { s with
        opr := opr, fault := { code := 2, call := s.txCalls, addr := addr }, result := .raised .emptyPayload }) ∧
    (Config.maxPayload < payload.length →
      exec (.send addr payload) s = .next { s with
        opr := opr, fault := { code := 3, call := s.txCalls, addr := addr }, result := .raised .payloadTooLong }) ∧
    (1 ≤ payload.length → payload.length ≤ Config.maxPayload → s.txOpen = false →
      exec (.send addr payload) s = .next { s with
        opr := opr, res := encTransaction Config.line addr payload
        fault := { code := 4, call := s.txCalls, addr := addr }, result := .raised .notOpen }) ∧
    (1 ≤ payload.length → payload.length ≤ Config.maxPayload → s.txOpen = true → s.txErr = true →
      exec (.send addr payload) s = .next { s with
        opr := opr, res := encTransaction Config.line addr payload
        fault := { code := 6, call := s.txCalls, addr := addr }, result := .raised .sessionFailed })

/-- `SEND addr, payload` on an open transport (41_transport.md R95): one write call and one flush put exactly the frame on the
line after what was pending; when the write or the flush fails, a prefix of the pending bytes and the frame. -/
def Obligations.SendPutsOneFrame : Prop :=
  ∀ (addr : Addr) (payload frame : List Byte) (s : State) (opr : Opr),
    opr = { op := 0x3, arg := addr, len := BitVec.ofNat 32 payload.length, data := payload } →
    frame = encTransaction Config.line addr payload →
    1 ≤ payload.length → payload.length ≤ Config.maxPayload → s.txOpen = true → s.txErr = false →
    (s.env.okNow = true → s.env.afterOk.okNow = true →
      exec (.send addr payload) s = .next { s with
        opr := opr, res := frame, txCalls := s.txCalls + 1, txLine := s.txLine ++ s.txBuf ++ frame, txBuf := []
        hist := s.hist ++ [.write (s.txCalls + 1) frame, .flush], result := .done
        env := s.env.afterOk.afterOk }) ∧
    (s.env.okNow = false →
      ∃ q, q <+: s.txBuf ++ frame ∧
      exec (.send addr payload) s = .next { s with
        opr := opr, res := frame, txCalls := s.txCalls + 1, txLine := s.txLine ++ q, txBuf := [], txErr := true
        hist := s.hist ++ [.failed (s.txCalls + 1) .write]
        fault := { code := 7, call := s.txCalls + 1, addr := addr }
        result := .raised .transportError, env := s.env.afterOk.afterPrefix }) ∧
    (s.env.okNow = true → s.env.afterOk.okNow = false →
      ∃ q, q <+: s.txBuf ++ frame ∧
      exec (.send addr payload) s = .next { s with
        opr := opr, res := frame, txCalls := s.txCalls + 1, txLine := s.txLine ++ q, txBuf := [], txErr := true
        hist := s.hist ++ [.write (s.txCalls + 1) frame, .failed (s.txCalls + 1) .flush]
        fault := { code := 7, call := s.txCalls + 1, addr := addr }
        result := .raised .transportError, env := s.env.afterOk.afterOk.afterPrefix })

/-- `DLY ms` completes in every state and only records the wait (41_transport.md R99). That `OPR.len` and `OPR.data` are 0 and
[] is the model's choice (log 22). -/
def Obligations.DlyRecordsTheWait : Prop :=
  ∀ (ms : Addr) (s : State),
    exec (.dly ms) s = .next { s with
      opr := { op := 0x8, arg := ms, len := 0, data := [] }
      hist := s.hist ++ [.wait ms.toNat]
      result := .done }

/-! ## Rules over all operations -/

/-- Every operation ends, in a next state, without fault or with one of the six faults an operation can raise (60_exceptions.md R154,
R155, R158); a step stops only where the host breaks an operand stream (the model's choice, log 5), so it does not stop at a data
beat where a command word is due (the model's reading, log 4). -/
def Obligations.OnlyABrokenStreamStops : Prop :=
  (∀ (i : Instr) (s : State), ∃ t, exec i s = .next t ∧
    (t.result = .done ∨ ∃ f, t.result = .raised f ∧ f ≠ .invalidFirmware ∧ f ≠ .imageTooLarge ∧ f ≠ .illegalCommand)) ∧
  (∀ s : State, (∃ t, step s = .next t) ↔ ¬ ∃ how, decodeBeats s.port = .broken how) ∧
  (∀ (s : State) (r : Refusal), step s ≠ .refused r)

/-- A refusal keeps the transport, the line, `HIST`, the port and the environment (60_exceptions.md R154), and `RES` too, but for a
`SEND` that the transport refuses, which has written it (41_transport.md R95, 95_test_vectors.md X11; log 8). -/
def Obligations.RefusalsKeepTheTransport : Prop :=
  ∀ (i : Instr) (s t : State) (f : FaultName), exec i s = .next t → t.result = .raised f → f ≠ .transportError →
    TransportKept s t ∧ t.port = s.port ∧ t.env = s.env ∧
    ((∃ addr payload, i = .send addr payload ∧ (f = .notOpen ∨ f = .sessionFailed) ∧
        t.res = encTransaction Config.line addr payload) ∨
      t.res = s.res)

/-- `FAULT` is written when an operation raises a fault and by nothing else: its code, the value of `TX.calls` when it was
raised, and the `arg` of the operation that raised it (10_state.md R21, 60_exceptions.md R155). -/
def Obligations.FaultWrittenExactlyWhenRaised : Prop :=
  ∀ (i : Instr) (s t : State), exec i s = .next t →
    (t.result = .done ∧ t.fault = s.fault) ∨
    ∃ f, t.result = .raised f ∧ t.fault = { code := faultCode f, call := t.txCalls, addr := i.argField }

/-- `OPR` is written by the arrival of the operation and by nothing else in it (10_state.md R13), and the port is not touched.
Without an operand stream `OPR.len` and `OPR.data` are 0 and [] by the model's choice (log 22). -/
def Obligations.OperandsAreLatched : Prop :=
  ∀ (i : Instr) (s t : State), exec i s = .next t →
    t.port = s.port ∧ t.opr.op = i.opCode ∧ t.opr.arg = i.argField ∧
    (i.stream = [] → t.opr.len = 0 ∧ t.opr.data = []) ∧
    (∀ bytes, i.stream = operandBeats bytes → t.opr.len = BitVec.ofNat 32 bytes.length ∧ t.opr.data = bytes)

/-- `ENCB` and `ENCT` read no state: their result and, when they do not refuse, `RES` are the same from any two states
(40_encoder.md R83, 10_state.md R11). -/
def Obligations.EncodersReadNoState : Prop :=
  ∀ (s s' t t' : State) (i : Instr), ((∃ b, i = .encb b) ∨ ∃ addr payload, i = .enct addr payload) →
    exec i s = .next t → exec i s' = .next t' →
    t.result = t'.result ∧ (t.result = .done → t.res = t'.res) ∧ TransportKept s t ∧ t.env = s.env

/-- `TXF` is the barrier (20_memory.md R56): when it, or a `SEND`, ends without fault, the buffer is empty and everything that was
pending, and the whole frame of the `SEND`, is on the line. -/
def Obligations.FlushIsTheBarrier : Prop :=
  ∀ s t : State, t.result = .done →
    (exec .txf s = .next t → t.txBuf = [] ∧ t.txLine = s.txLine ++ s.txBuf) ∧
    (∀ addr payload, exec (.send addr payload) s = .next t →
      t.txBuf = [] ∧ t.txLine = s.txLine ++ s.txBuf ++ encTransaction Config.line addr payload)

/-- The model admits every choice of the environment: an accepted write, a failing write, flush or close with every prefix of
the pending bytes, a flush that succeeds, a `SEND` that succeeds and one whose write, or whose flush, fails with every prefix of the
pending bytes and the frame, and a drain of every prefix of the buffer, when nothing is presented and before an
operation that is (41_transport.md R92, R93, R94, R95, R96, R97; 95_test_vectors.md X10, X14; U1, U16). -/
def Obligations.EveryEnvironmentChoiceIsAdmitted : Prop :=
  ∀ (s : State) (bytes q : List Byte), s.txOpen = true → s.txErr = false →
    (∃ env t, exec (.txw bytes) { s with env := env } = .next t ∧ t.result = .done) ∧
    (q <+: s.txBuf ++ bytes → ∃ env t, exec (.txw bytes) { s with env := env } = .next t ∧
      t.result = .raised .transportError ∧ t.txLine = s.txLine ++ q) ∧
    (∃ env t, exec .txf { s with env := env } = .next t ∧ t.result = .done) ∧
    (q <+: s.txBuf → ∃ env t, exec .txf { s with env := env } = .next t ∧
      t.result = .raised .transportError ∧ t.txLine = s.txLine ++ q) ∧
    (q <+: s.txBuf → ∃ env t, exec .txc { s with env := env } = .next t ∧
      t.result = .done ∧ t.txLine = s.txLine ++ q) ∧
    (∀ rest, s.txBuf = q ++ rest → ∃ env t, step { s with env := env, port := [] } = .next t ∧
      t.txLine = s.txLine ++ q ∧ t.txBuf = rest) ∧
    (∀ addr payload frame, frame = encTransaction Config.line addr payload →
      1 ≤ payload.length → payload.length ≤ Config.maxPayload →
      (∃ env t, exec (.send addr payload) { s with env := env } = .next t ∧ t.result = .done) ∧
      ∀ out, out <+: s.txBuf ++ frame →
        (∃ env t, exec (.send addr payload) { s with env := env } = .next t ∧
          t.result = .raised .transportError ∧ t.txLine = s.txLine ++ out ∧
          t.hist = s.hist ++ [.failed (s.txCalls + 1) .write]) ∧
        (∃ env t, exec (.send addr payload) { s with env := env } = .next t ∧
          t.result = .raised .transportError ∧ t.txLine = s.txLine ++ out ∧
          t.hist = s.hist ++ [.write (s.txCalls + 1) frame, .failed (s.txCalls + 1) .flush])) ∧
    (∀ rest i beats, s.txBuf = q ++ rest → decodeBeats s.port = .instr i beats →
      ∃ env env', step { s with env := env } =
        exec i { s with txLine := s.txLine ++ q, txBuf := rest, env := env', port := beats })

/-- With nothing at the command port a step is a moment of the drain agent (41_transport.md R96): a prefix of the buffer moves to
the line, none while the transport is closed or failed, and nothing else but the environment changes. -/
def Obligations.IdleStepOnlyDrains : Prop :=
  ∀ s : State, s.port = [] →
    ∃ q rest env, s.txBuf = q ++ rest ∧ (s.txOpen = false ∨ s.txErr = true → q = []) ∧
      step s = .next { s with txLine := s.txLine ++ q, txBuf := rest, env := env }

/-- `STATUS`, bit by bit, and its reset value (10_state.md R24). -/
def Obligations.StatusBitByBit : Prop :=
  statusByte State.reset = 0 ∧ ∀ s : State,
    (statusByte s).getLsbD 0 = s.txOpen ∧
    (statusByte s).getLsbD 1 = s.txErr ∧
    ((statusByte s).getLsbD 2 = true ↔ s.txBuf ≠ []) ∧
    ∀ k, 3 ≤ k → (statusByte s).getLsbD k = false

/-- The numbers of the faults (60_exceptions.md R155). -/
def Obligations.FaultNumbers : Prop :=
  faultCode .illegalCommand = 1 ∧ faultCode .emptyPayload = 2 ∧ faultCode .payloadTooLong = 3 ∧
  faultCode .notOpen = 4 ∧ faultCode .alreadyOpen = 5 ∧ faultCode .sessionFailed = 6 ∧
  faultCode .transportError = 7 ∧ faultCode .invalidFirmware = 8 ∧ faultCode .imageTooLarge = 9 ∧
  State.reset.fault.code = 0

/-- The state after reset, as far as the spec gives it (10_state.md R31; the values are the spec's own decision D21): `OPR` is
unspecified there and not stated here. The encode table is a constant outside State (log 16), the same before and after. -/
def Obligations.ResetLeaves : Prop :=
  (∀ b : Byte, (encTable Config.line)[b.toNat]? = some (encByte Config.line b)) ∧
  State.reset.res = [] ∧ State.reset.txOpen = false ∧ State.reset.txErr = false ∧ State.reset.txBuf = [] ∧
  State.reset.txLine = [] ∧ State.reset.txCalls = 0 ∧
  State.reset.fault = { code := 0, call := 0, addr := 0 } ∧ State.reset.hist = [] ∧ statusByte State.reset = 0x00

/-! ## Invariants and runs -/

/-- The state after reset meets the invariant. -/
def Obligations.ResetMeetsTheInvariant : Prop := TransportInv State.reset

/-- Every step from a state that meets the invariant ends in one that does: 10_state.md R23 (a), (b), (d) as far as one state
shows it, and the agreement of `TX.open`, `TX.err`, `TX.calls` and the call numbers with `HIST` (R16, R17, R20, R22). -/
def Obligations.StepKeepsTheInvariant : Prop :=
  ∀ s t : State, TransportInv s → step s = .next t → TransportInv t

/-- Along every run from any state `TX.line` and `HIST` only grow, at their ends (10_state.md R19, R22; 41_transport.md R100 (a), (e)). -/
def Obligations.LineAndHistoryOnlyGrow : Prop :=
  ∀ (k : Nat) (s t : State), Sys2Proof.core.run k s = .next t → s.txLine <+: t.txLine ∧ s.hist <+: t.hist

/-- First in, first out (20_memory.md R55; 10_state.md R23 (d), 41_transport.md R100 (d)): along every run in which no open, close
or failure is recorded, the line and the buffer together grow by exactly the bytes of the successful writes, in order. -/
def Obligations.SessionCarriesEveryAcceptedByte : Prop :=
  ∀ (k : Nat) (s t : State) (new : List Event), Sys2Proof.core.run k s = .next t → t.hist = s.hist ++ new →
    (∀ e ∈ new, e ≠ .opened ∧ e ≠ .closed ∧ isFail e = false) →
    t.txLine ++ t.txBuf = s.txLine ++ s.txBuf ++ sessionBytes new

/-- After a failure `TX.line` never grows again until a new session is opened, and the session stays failed
(41_transport.md R98, R100 (c)). -/
def Obligations.FailedSessionSendsNothing : Prop :=
  ∀ (k : Nat) (s t : State) (new : List Event), TransportInv s → s.txErr = true →
    Sys2Proof.core.run k s = .next t → t.hist = s.hist ++ new → .opened ∉ new →
    t.txLine = s.txLine ∧ t.txErr = true ∧ t.txCalls = s.txCalls

/-! ## The Register/Command Layer and the Flash Programmer -/

/-- The expansions of the pseudo-instructions, written out for every address (42_command_layer.md R111 to R121), and the vectors
K1 to K10 of 95_test_vectors.md among them. The flash address is sent most significant byte first: the spec's own passage from
general knowledge (20_memory.md R46; log 18). At an address of `sector_erase` that is not a multiple of 4096, and for `data` of 0
or more than 256 bytes, calls outside the spec, the expansion is the model's choice (log 24). -/
def Obligations.ExpansionsWrittenOut : Prop :=
  ∀ (c : CommandConstants) (a : Addr) (opcode : Byte) (extra data : List Byte) (dur : Nat),
    csAssert c = [Instr.send c.aCsOn [c.vCsOn]] ∧
    csDeassert c = [Instr.send c.aCsOff [c.vCsOff]] ∧
    issueOpcode c opcode extra true =
      [Instr.send c.aCsOn [c.vCsOn], Instr.send c.aFdata ([opcode] ++ extra ++ [c.vCsOff])] ∧
    issueOpcode c opcode extra false = [Instr.send c.aCsOn [c.vCsOn], Instr.send c.aFdata ([opcode] ++ extra)] ∧
    writeEnable c = [Instr.send c.aCsOn [c.vCsOn], Instr.send c.aFdata [c.opWren, c.vCsOff]] ∧
    wake c = [Instr.send c.aCsOn [c.vCsOn], Instr.send c.aFdata [c.opWake, c.vCsOff]] ∧
    clearProtectStatus c = writeEnable c ++ [Instr.send c.aCsOn [c.vCsOn],
      Instr.send c.aFdata [c.opWrsr, c.srUnlock, 0x00], Instr.send c.aCsOff [c.vCsOff], Instr.dly 3] ∧
    sectorErase c a = writeEnable c ++ [Instr.send c.aCsOn [c.vCsOn],
      Instr.send c.aFdata [c.opSe, a.extractLsb' 16 8, a.extractLsb' 8 8, a.extractLsb' 0 8],
      Instr.send c.aCsOff [c.vCsOff], Instr.dly 250] ∧
    sectorErase c 0x123000 = writeEnable c ++ [Instr.send c.aCsOn [c.vCsOn],
      Instr.send c.aFdata [c.opSe, 0x12, 0x30, 0x00], Instr.send c.aCsOff [c.vCsOff], Instr.dly 250] ∧
    sectorErase c 0x001000 = writeEnable c ++ [Instr.send c.aCsOn [c.vCsOn],
      Instr.send c.aFdata [c.opSe, 0x00, 0x10, 0x00], Instr.send c.aCsOff [c.vCsOff], Instr.dly 250] ∧
    sectorErase c 0x000000 = writeEnable c ++ [Instr.send c.aCsOn [c.vCsOn],
      Instr.send c.aFdata [c.opSe, 0x00, 0x00, 0x00], Instr.send c.aCsOff [c.vCsOff], Instr.dly 250] ∧
    pageProgram c a data = writeEnable c ++ [Instr.send c.aCsOn [c.vCsOn], Instr.send c.aSwsid [c.vFifoOn],
      Instr.send c.aFdata ([c.opPp, a.extractLsb' 16 8, a.extractLsb' 8 8, a.extractLsb' 0 8] ++ data),
      Instr.send c.aSwsid [c.vFifoOff], Instr.send c.aCsOff [c.vCsOff], Instr.dly 10] ∧
    pageProgram c 0x123400 data = writeEnable c ++ [Instr.send c.aCsOn [c.vCsOn], Instr.send c.aSwsid [c.vFifoOn],
      Instr.send c.aFdata ([c.opPp, 0x12, 0x34, 0x00] ++ data), Instr.send c.aSwsid [c.vFifoOff],
      Instr.send c.aCsOff [c.vCsOff], Instr.dly 10] ∧
    pageProgram c 0x000100 data = writeEnable c ++ [Instr.send c.aCsOn [c.vCsOn], Instr.send c.aSwsid [c.vFifoOn],
      Instr.send c.aFdata ([c.opPp, 0x00, 0x01, 0x00] ++ data), Instr.send c.aSwsid [c.vFifoOff],
      Instr.send c.aCsOff [c.vCsOff], Instr.dly 10] ∧
    pageProgram c 0x001000 data = writeEnable c ++ [Instr.send c.aCsOn [c.vCsOn], Instr.send c.aSwsid [c.vFifoOn],
      Instr.send c.aFdata ([c.opPp, 0x00, 0x10, 0x00] ++ data), Instr.send c.aSwsid [c.vFifoOff],
      Instr.send c.aCsOff [c.vCsOff], Instr.dly 10] ∧
    forceHalt c dur 0 = [] ∧
    (∀ n, forceHalt c dur (n + 1) =
      [Instr.send c.aPwdn [c.vReset], Instr.send c.aCpuctl [c.vCpuStop], Instr.dly 1] ++ forceHalt c dur n) ∧
    forceHalt c dur 3 = [Instr.send c.aPwdn [c.vReset], Instr.send c.aCpuctl [c.vCpuStop], Instr.dly 1,
      Instr.send c.aPwdn [c.vReset], Instr.send c.aCpuctl [c.vCpuStop], Instr.dly 1,
      Instr.send c.aPwdn [c.vReset], Instr.send c.aCpuctl [c.vCpuStop], Instr.dly 1] ∧
    configureBusClock c = [Instr.send c.aClk [c.vClkdiv], Instr.send c.aCpuctl [c.vCpuStop]] ∧
    chipReset c = [Instr.send c.aPwdn [c.vReset]]

/-- Whatever the environment answers, the operations of the layer leave every write of `HIST` flushed at once (or with its flush
failed) and every write a well-formed WireFrame (70_reset_and_hazards.md R172, R181). -/
def Obligations.LayerFramesAreFlushedAndMarked : Prop :=
  ∀ (ops : List Instr) (s t : State), (∀ i ∈ ops, LayerOp i) → FlushAfterEveryFrame s.hist → FramesMarked s.hist →
    issueAll ops s = .next t → FlushAfterEveryFrame t.hist ∧ FramesMarked t.hist

/-- How many write calls and how many bytes on the line each pseudo-instruction makes (42_command_layer.md R111 to R122). For
`data` of 0 or more than 256 bytes, and an unaligned `sector_erase`, calls outside the spec, the clauses are about the model's
expansion (log 24). -/
def Obligations.PseudoInstructionSizes : Prop :=
  ∀ (c : CommandConstants) (a : Addr) (opcode : Byte) (extra data : List Byte) (dur n : Nat),
    (callCount (csAssert c) = 1 ∧ ((csAssert c).flatMap opFrame).length = 70) ∧
    (callCount (csDeassert c) = 1 ∧ ((csDeassert c).flatMap opFrame).length = 70) ∧
    (callCount (issueOpcode c opcode extra true) = 2 ∧
      ((issueOpcode c opcode extra true).flatMap opFrame).length = 70 + (extra.length + 8) * 10) ∧
    (callCount (issueOpcode c opcode extra false) = 2 ∧
      ((issueOpcode c opcode extra false).flatMap opFrame).length = 70 + (extra.length + 7) * 10) ∧
    (callCount (writeEnable c) = 2 ∧ ((writeEnable c).flatMap opFrame).length = 150) ∧
    (callCount (wake c) = 2 ∧ ((wake c).flatMap opFrame).length = 150) ∧
    (callCount (clearProtectStatus c) = 5 ∧ ((clearProtectStatus c).flatMap opFrame).length = 380) ∧
    (callCount (sectorErase c a) = 5 ∧ ((sectorErase c a).flatMap opFrame).length = 390) ∧
    (callCount (pageProgram c a data) = 7 ∧
      ((pageProgram c a data).flatMap opFrame).length = 430 + (data.length + 10) * 10) ∧
    (callCount (forceHalt c dur n) = 2 * n ∧ ((forceHalt c dur n).flatMap opFrame).length = 140 * n) ∧
    (callCount (configureBusClock c) = 2 ∧ ((configureBusClock c).flatMap opFrame).length = 140) ∧
    (callCount (chipReset c) = 1 ∧ ((chipReset c).flatMap opFrame).length = 70)

/-- A host that issues admitted `SEND`s and `DLY`s on an open idle transport, with no failure, puts exactly their frames on the line
in order, makes one call per frame, leaves the buffer empty and the events of the operations in `HIST`
(41_transport.md R100 (b)). -/
def Obligations.FaultFreeOperationsReachTheLine : Prop :=
  ∀ (ops : List Instr) (s : State) (more : List Bool), (∀ i ∈ ops, LayerOp i) → ReadyTransport s →
    s.env.oks = List.replicate (2 * callCount ops) true ++ more →
    ∃ t, issueAll ops s = .next t ∧ ReadyTransport t ∧
      t.txLine = s.txLine ++ ops.flatMap opFrame ∧ t.txCalls = s.txCalls + callCount ops ∧
      t.hist.map shape = s.hist.map shape ++ shapes ops ∧ t.fault = s.fault ∧ t.env.oks = more

/-- When the write of one `SEND` is the first to fail, the line has grown by the frames before it and a prefix of its own frame,
no later operation runs, and the fault record names the call and the address (41_transport.md R97, R100 (c);
60_exceptions.md R152, R158). -/
def Obligations.FailingWriteCutsTheLine : Prop :=
  ∀ (before after : List Instr) (addr : Addr) (payload : List Byte) (s : State) (more : List Bool),
    (∀ i ∈ before, LayerOp i) → LayerOp (.send addr payload) → ReadyTransport s →
    s.env.oks = List.replicate (2 * callCount before) true ++ false :: more →
    ∃ t q, issueAll (before ++ .send addr payload :: after) s = .next t ∧
      q <+: encTransaction Config.line addr payload ∧
      t.txLine = s.txLine ++ before.flatMap opFrame ++ q ∧ t.txBuf = [] ∧ t.txErr = true ∧ t.txOpen = true ∧
      t.result = .raised .transportError ∧
      t.fault = { code := 7, call := s.txCalls + callCount before + 1, addr := addr } ∧
      t.hist.getLast? = some (.failed (s.txCalls + callCount before + 1) .write)

/-- The operations of the loop, turn by turn: chunks of 256 bytes at ascending offsets, each sector erased once, before the first
program inside it, and every erase and program with its own fixed delay (43_flash_programmer.md R136, R141 (a) to (d)). Above 2^24 bytes, where only `program` without
`flash` comes, the address is the offset modulo 2^24 by the model's choice (log 23). -/
def Obligations.LoopErasesThenPrograms : Prop :=
  ∀ (c : CommandConstants) (fw : List Byte),
    actionOps (chunkLoop c fw fw.length 0) =
      (List.range ((fw.length + 255) / 256)).flatMap fun k =>
        (if k % 16 = 0 then sectorErase c (BitVec.ofNat 24 (256 * k)) else []) ++
        pageProgram c (BitVec.ofNat 24 (256 * k)) ((fw.drop (256 * k)).take 256)

/-- The write calls of a run without fault: `2N + 5` for an empty image, `2N + 15 + 5E + 7P` otherwise
(43_flash_programmer.md R138). -/
def Obligations.ProgramWriteCalls : Prop :=
  ∀ (c : CommandConstants) (dur n t0 : Nat) (fw : List Byte),
    callCount (actionOps (programActions c dur n t0 fw)) =
      if fw.length = 0 then 2 * n + 5
      else 2 * n + 15 + 5 * ((fw.length + 4095) / 4096) + 7 * ((fw.length + 255) / 256)

/-- The gate (43_flash_programmer.md R130, R131, R140): an image that is too large, or whose bytes 8 to 11 are not `T,L,N,K`, is
rejected with the block untouched; any other image is programmed. The ASCII values are the spec's from general knowledge (log 18). -/
def Obligations.GateRejectsUntouched : Prop :=
  ∀ (c : CommandConstants) (dur n t0 : Nat) (fw : List Byte) (s : State),
    (magicOk fw = true ↔ 12 ≤ fw.length ∧ fw[8]? = some 0x54 ∧ fw[9]? = some 0x4C ∧
      fw[10]? = some 0x4E ∧ fw[11]? = some 0x4B) ∧
    (2 ^ 24 < fw.length → flash c dur n t0 fw s =
      .next { session := none, state := s, answer := .err .imageTooLarge }) ∧
    (fw.length ≤ 2 ^ 24 → magicOk fw = false → flash c dur n t0 fw s =
      .next { session := none, state := s, answer := .err .invalidFirmware }) ∧
    (fw.length ≤ 2 ^ 24 → magicOk fw = true → flash c dur n t0 fw s = runProgram c dur n t0 fw s)

/-- A run of `program` in which nothing fails ends in `Done` with `Ok`, with every frame of the program on the line in order
(43_flash_programmer.md R137, R138). -/
def Obligations.FaultFreeProgramCompletes : Prop :=
  ∀ (c : CommandConstants) (dur n t0 : Nat) (fw : List Byte) (s : State) (more : List Bool), ReadyTransport s →
    s.env.oks = List.replicate (2 * callCount (actionOps (programActions c dur n t0 fw))) true ++ more →
    ∃ e fp, runProgram c dur n t0 fw s = .next e ∧ e.answer = .ok ∧ e.session = some fp ∧ fp.state = .done ∧
      ReadyTransport e.state ∧
      e.state.txLine = s.txLine ++ (actionOps (programActions c dur n t0 fw)).flatMap opFrame ∧
      e.state.txCalls = s.txCalls + callCount (actionOps (programActions c dur n t0 fw))

/-- In what any run of `program` adds to the history, whatever the environment answers and whatever stood there before, the frames
of `write_enable()` stand immediately before those of every status write, sector erase and page program
(70_reset_and_hazards.md R173, 42_command_layer.md R114). -/
def Obligations.ProgramWriteEnablesFirst : Prop :=
  ∀ (c : CommandConstants) (dur n t0 : Nat) (fw : List Byte) (s : State), ReadyTransport s →
    ∃ e new, runProgram c dur n t0 fw s = .next e ∧ e.state.hist = s.hist ++ new ∧ WriteEnableBeforeMutation c new

/-- In what any run of `program` adds to the history the fixed delays are kept and each sector is erased, with the erase's own wait,
before it is programmed (70_reset_and_hazards.md R174, R175; 43_flash_programmer.md R141 (c), (g)). For constants whose
single-byte writes differ, so that a halt iteration can be told from its frames, the cadence of the halt loop is kept too. -/
def Obligations.ProgramErasesAndWaits : Prop :=
  ∀ (c : CommandConstants) (dur n t0 : Nat) (fw : List Byte) (s : State), ReadyTransport s →
    ∃ e new, runProgram c dur n t0 fw s = .next e ∧ e.state.hist = s.hist ++ new ∧
      FlashDelays c new ∧ EraseBeforeProgram c new ∧ (WritesDistinct c → FixedDelays c new)

/-- In what any run of `program` adds to the history the writes before a flash command are those of the whole halt loop of the run,
then the bus clock, then flash commands, the wake first of them when the command mutates the flash; so the duty to seize the chip
first is met (70_reset_and_hazards.md R176). -/
def Obligations.ProgramSeizesTheChipFirst : Prop :=
  ∀ (c : CommandConstants) (dur n t0 : Nat) (fw : List Byte) (s : State), ReadyTransport s →
    ∃ e new, runProgram c dur n t0 fw s = .next e ∧ e.state.hist = s.hist ++ new ∧ SeizedFirst c new ∧
      ∀ ops pre post, FlashCommand c ops → Occurs new pre ops post →
        ∃ before : List (List Instr), (∀ b ∈ before, FlashCommand c b) ∧
          writesOf pre = writesOf (shapes (forceHalt c dur n ++ configureBusClock c ++ before.flatten)) ∧
          (FlashMutation c ops → before.head? = some (wake c))

/-- In what any run of `program` adds to the history every burst stands between the writes that set and clear the FIFO flag, inside
chip select, cut short only by a failure (70_reset_and_hazards.md R177). For constants whose single-byte writes differ, the flag
is never left set but by a failure. -/
def Obligations.ProgramBracketsTheBurst : Prop :=
  ∀ (c : CommandConstants) (dur n t0 : Nat) (fw : List Byte) (s : State), ReadyTransport s →
    ∃ e new, runProgram c dur n t0 fw s = .next e ∧ e.state.hist = s.hist ++ new ∧
      FifoBrackets c new ∧ (WritesDistinct c → FifoNotLeftSet c new)

/-- The operations of `program`, each with the step and offset an error at it reports (43_flash_programmer.md R132 to R139): the
label of its transition, and in the loop the offset of its chunk. The addresses above 2^24 are the model's choice (log 23). -/
def Obligations.OperationsCarryTheirStep : Prop :=
  ∀ (c : CommandConstants) (dur n t0 : Nat) (fw : List Byte),
    labelledOps (programActions c dur n t0 fw) newProgSession =
      (forceHalt c dur n).map (fun i => { step := .halting, offset := none, op := i }) ++
      (configureBusClock c).map (fun i => { step := .clockConfigured, offset := none, op := i }) ++
      (wake c).map (fun i => { step := .flashAwake, offset := none, op := i }) ++
      (if fw = [] then [] else
        (clearProtectStatus c ++ clearProtectStatus c).map
          (fun i => { step := .statusCleared, offset := none, op := i })) ++
      ((List.range ((fw.length + 255) / 256)).flatMap fun k =>
        (if k % 16 = 0 then
          (sectorErase c (BitVec.ofNat 24 (256 * k))).map
            (fun i => { step := .erasing, offset := some (256 * k), op := i })
        else []) ++
        (pageProgram c (BitVec.ofNat 24 (256 * k)) ((fw.drop (256 * k)).take 256)).map
          (fun i => { step := .programming, offset := some (256 * k), op := i })) ++
      (chipReset c).map (fun i => { step := .resetting, offset := none, op := i })

/-- Every run of `program`, whatever the environment answers, ends in `Ok` with all its operations carried out, or aborts at the
write or flush of one of them, `failing` (43_flash_programmer.md R139, 60_exceptions.md R152): the operations before it were
carried out and none after it was issued, `FP.state` is `Aborted`, and the error carries the step and the offset of `failing`
(those are OperationsCarryTheirStep's) and the block's `FAULT` record with its call number and address. -/
def Obligations.ProgramEndsOrAborts : Prop :=
  ∀ (c : CommandConstants) (dur n t0 : Nat) (fw : List Byte) (s : State), ReadyTransport s →
    ∃ e fp new, runProgram c dur n t0 fw s = .next e ∧ e.session = some fp ∧ e.state.hist = s.hist ++ new ∧
      ((e.answer = .ok ∧ fp.state = .done ∧ ReadyTransport e.state ∧
        new.map shape = shapes (actionOps (programActions c dur n t0 fw))) ∨
       ∃ done failing rest record,
         labelledOps (programActions c dur n t0 fw) newProgSession = done ++ failing :: rest ∧
         record = { code := 7, call := s.txCalls + callCount (done.map (·.op)) + 1, addr := failing.op.argField } ∧
         e.answer = .err (.transportError failing.step failing.offset record) ∧
         fp.state = .aborted ∧ e.state.fault = record ∧ e.state.txErr = true ∧ e.state.txOpen = true ∧
         (new.map shape = shapes (done.map (·.op)) ++ [Event.failed 0 .write] ∨
          new.map shape = shapes (done.map (·.op)) ++ [Event.write 0 (opFrame failing.op), .failed 0 .flush]))

/-- `session` releases the transport on every exit path, whatever the image and the environment are
(43_flash_programmer.md R130, 70_reset_and_hazards.md R180); one that ends in a `TransportError` with nothing left at the port has
ended in failure (R183). A session that finds the transport held acquires and releases nothing: the model's choice (log 15). -/
def Obligations.SessionReleasesOnEveryPath : Prop :=
  ∀ (c : CommandConstants) (dur n t0 : Nat) (fw : List Byte) (s : State),
    (s.txOpen = false →
      ∃ e, flashSession c dur n t0 fw s = .next e ∧ e.state.txOpen = false ∧ e.state.txBuf = [] ∧
        e.state.hist.getLast? = some .closed ∧ ReleasedOnExit e.state.hist ∧
        ∀ step off record, e.answer = .err (.transportError step off record) → s.port = [] →
          endedInFailure e.state) ∧
    (s.txOpen = true →
      ∃ e record, flashSession c dur n t0 fw s = .next e ∧ e.answer = .err (.notAcquired record) ∧
        record.code = 5 ∧ e.state.txOpen = true ∧ e.state.hist = s.hist)

/-- A `session` with an admitted image, in which nothing fails, from a state with no failure in its history and nothing left at
the port, ends well (70_reset_and_hazards.md R183) and answers `Ok`. -/
def Obligations.FaultFreeSessionEndsWell : Prop :=
  ∀ (c : CommandConstants) (dur n t0 : Nat) (fw : List Byte) (s : State) (more : List Bool),
    s.txOpen = false → s.port = [] → (∀ e ∈ s.hist, isFail e = false) →
    fw.length ≤ 2 ^ 24 → magicOk fw = true →
    s.env.oks = List.replicate (2 * callCount (actionOps (programActions c dur n t0 fw))) true ++ more →
    ∃ e, flashSession c dur n t0 fw s = .next e ∧ e.answer = .ok ∧ endedWell e.state
end

