-- ==== Sys2Proof/Laws/Decode.lean ====
section
/-! SUPPORT. Small lemmas about the command port: the fields of a command word, taking data beats, operand streams. -/

namespace Sys2Proof

/-- The bits of a command word (30_encoding.md R65). -/
theorem getLsbD_commandWord (op : BitVec 4) (arg : Addr) (i : Nat) :
    (commandWord op arg).getLsbD i =
      if i < 24 then arg.getLsbD i else if i < 28 then false else op.getLsbD (i - 28) := by
  unfold commandWord
  rw [BitVec.getLsbD_append, BitVec.getLsbD_append]
  by_cases h : i < 24
  · simp [h]
  · by_cases h2 : i < 28
    · simp [h, h2, show i - 24 < 4 by omega]
    · simp [h, h2, show ¬ (i - 24 < 4) by omega, Nat.sub_sub]

@[simp] theorem cwOp_commandWord (op : BitVec 4) (arg : Addr) : cwOp (commandWord op arg) = op := by
  apply BitVec.eq_of_getLsbD_eq
  intro i hi
  simp [cwOp, getLsbD_commandWord, hi]
  omega

@[simp] theorem cwRsv_commandWord (op : BitVec 4) (arg : Addr) : cwRsv (commandWord op arg) = 0 := by
  apply BitVec.eq_of_getLsbD_eq
  intro i hi
  simp [cwRsv, getLsbD_commandWord, hi]
  omega

@[simp] theorem cwArg_commandWord (op : BitVec 4) (arg : Addr) : cwArg (commandWord op arg) = arg := by
  apply BitVec.eq_of_getLsbD_eq
  intro i hi
  simp [cwArg, getLsbD_commandWord, hi]

/-- A command word with `rsv = 0` is its two other fields. -/
theorem commandWord_fields (w : Word32) (h : cwRsv w = 0) : commandWord (cwOp w) (cwArg w) = w := by
  apply BitVec.eq_of_getLsbD_eq
  intro i hi
  rw [getLsbD_commandWord]
  split
  · next h1 => simp [cwArg, h1]
  · next h1 =>
    split
    · next h2 =>
      have h3 := congrArg (fun v => v.getLsbD (i - 24)) h
      simp [cwRsv, show i - 24 < 4 by omega, show 24 + (i - 24) = i by omega] at h3
      exact h3.symm
    · simp [cwOp, show i - 28 < 4 by omega, show 28 + (i - 28) = i by omega]

/-- What the check of 30_encoding.md R67 leaves of a legal word. -/
theorem legal_fields {w : Word32} (h : illegalReason w = none) :
    cwOp w ≠ 0 ∧ ¬ 9 ≤ (cwOp w).toNat ∧ cwRsv w = 0 ∧
    (cwOp w = 1 → (cwArg w).extractLsb' 8 16 = 0) ∧
    (4 ≤ (cwOp w).toNat → (cwOp w).toNat ≤ 7 → cwArg w = 0) := by
  unfold illegalReason at h
  split at h
  · simp at h
  split at h
  · simp at h
  split at h
  · simp at h
  split at h
  · simp at h
  split at h
  · simp at h
  next h0 h9 hr h1 h4 =>
    refine ⟨h0, h9, by simpa using hr, ?_, ?_⟩
    · intro e
      by_contra hc
      exact h1 ⟨e, hc⟩
    · intro e e'
      by_contra hc
      exact h4 ⟨e, e', hc⟩

/-- The beats of a payload are taken back as that payload, and nothing after them is touched. -/
theorem takeData_beats (bytes : List Byte) (rest : List Beat) :
    takeData (bytes.map .data ++ rest) bytes.length = .all bytes rest := by
  induction bytes with
  | nil => cases rest <;> rfl
  | cons b bytes ih => simp [takeData, ih, Taken.push]

/-- What was taken is what stood there. -/
theorem takeData_all {beats : List Beat} {n : Nat} {bytes : List Byte} {rest : List Beat}
    (h : takeData beats n = .all bytes rest) : beats = bytes.map .data ++ rest ∧ bytes.length = n := by
  induction n generalizing beats bytes with
  | zero =>
    cases beats <;> simp only [takeData, Taken.all.injEq] at h <;> obtain ⟨rfl, rfl⟩ := h <;> simp
  | succ n ih =>
    cases beats with
    | nil => simp [takeData] at h
    | cons b beats =>
      cases b with
      | word w => simp [takeData] at h
      | data b =>
        rw [takeData] at h
        cases ht : takeData beats n with
        | all bs r =>
          rw [ht] at h
          simp only [Taken.push, Taken.all.injEq] at h
          obtain ⟨rfl, rfl⟩ := h
          obtain ⟨rfl, rfl⟩ := ih ht
          simp
        | short => rw [ht] at h; simp [Taken.push] at h
        | wordMet => rw [ht] at h; simp [Taken.push] at h

/-- An operand stream of fewer than `2^32` bytes is read back whole (30_encoding.md R66). -/
theorem takeOperands_beats (mk : List Byte → Instr) {bytes : List Byte} (rest : List Beat)
    (h : bytes.length < streamBound) :
    takeOperands mk (operandBeats bytes ++ rest) = .instr (mk bytes) rest := by
  simp only [operandBeats, List.cons_append, takeOperands, BitVec.toNat_ofNat]
  rw [Nat.mod_eq_of_lt (show bytes.length < 2 ^ 32 from h), takeData_beats]

end Sys2Proof
end

