-- ==== Sys2Proof/Laws/State.lean ====
section
/-! SUPPORT. What each update of the state leaves in each field, so that no later proof unfolds a record update; the fields a
moment of the drain agent leaves alone; the environment's answers. -/

namespace Sys2Proof.Machine

section Updates

variable (s : State)

/-! `State.latch` -/

@[simp] theorem latch_opr (op : BitVec 4) (arg : Addr) (data : List Byte) :
    (s.latch op arg data).opr = { op := op, arg := arg, len := BitVec.ofNat 32 data.length, data := data } := rfl
@[simp] theorem latch_res (op : BitVec 4) (arg : Addr) (data : List Byte) :
    (s.latch op arg data).res = s.res := rfl
@[simp] theorem latch_txOpen (op : BitVec 4) (arg : Addr) (data : List Byte) :
    (s.latch op arg data).txOpen = s.txOpen := rfl
@[simp] theorem latch_txErr (op : BitVec 4) (arg : Addr) (data : List Byte) :
    (s.latch op arg data).txErr = s.txErr := rfl
@[simp] theorem latch_txBuf (op : BitVec 4) (arg : Addr) (data : List Byte) :
    (s.latch op arg data).txBuf = s.txBuf := rfl
@[simp] theorem latch_txLine (op : BitVec 4) (arg : Addr) (data : List Byte) :
    (s.latch op arg data).txLine = s.txLine := rfl
@[simp] theorem latch_txCalls (op : BitVec 4) (arg : Addr) (data : List Byte) :
    (s.latch op arg data).txCalls = s.txCalls := rfl
@[simp] theorem latch_fault (op : BitVec 4) (arg : Addr) (data : List Byte) :
    (s.latch op arg data).fault = s.fault := rfl
@[simp] theorem latch_hist (op : BitVec 4) (arg : Addr) (data : List Byte) :
    (s.latch op arg data).hist = s.hist := rfl
@[simp] theorem latch_result (op : BitVec 4) (arg : Addr) (data : List Byte) :
    (s.latch op arg data).result = s.result := rfl
@[simp] theorem latch_port (op : BitVec 4) (arg : Addr) (data : List Byte) :
    (s.latch op arg data).port = s.port := rfl
@[simp] theorem latch_env (op : BitVec 4) (arg : Addr) (data : List Byte) :
    (s.latch op arg data).env = s.env := rfl

/-! `State.finish` -/

@[simp] theorem finish_opr :
    (s.finish).opr = s.opr := rfl
@[simp] theorem finish_res :
    (s.finish).res = s.res := rfl
@[simp] theorem finish_txOpen :
    (s.finish).txOpen = s.txOpen := rfl
@[simp] theorem finish_txErr :
    (s.finish).txErr = s.txErr := rfl
@[simp] theorem finish_txBuf :
    (s.finish).txBuf = s.txBuf := rfl
@[simp] theorem finish_txLine :
    (s.finish).txLine = s.txLine := rfl
@[simp] theorem finish_txCalls :
    (s.finish).txCalls = s.txCalls := rfl
@[simp] theorem finish_fault :
    (s.finish).fault = s.fault := rfl
@[simp] theorem finish_hist :
    (s.finish).hist = s.hist := rfl
@[simp] theorem finish_result :
    (s.finish).result = .done := rfl
@[simp] theorem finish_port :
    (s.finish).port = s.port := rfl
@[simp] theorem finish_env :
    (s.finish).env = s.env := rfl

/-! `State.raiseAt` -/

@[simp] theorem raiseAt_opr (addr : Addr) (f : FaultName) :
    (s.raiseAt addr f).opr = s.opr := rfl
@[simp] theorem raiseAt_res (addr : Addr) (f : FaultName) :
    (s.raiseAt addr f).res = s.res := rfl
@[simp] theorem raiseAt_txOpen (addr : Addr) (f : FaultName) :
    (s.raiseAt addr f).txOpen = s.txOpen := rfl
@[simp] theorem raiseAt_txErr (addr : Addr) (f : FaultName) :
    (s.raiseAt addr f).txErr = s.txErr := rfl
@[simp] theorem raiseAt_txBuf (addr : Addr) (f : FaultName) :
    (s.raiseAt addr f).txBuf = s.txBuf := rfl
@[simp] theorem raiseAt_txLine (addr : Addr) (f : FaultName) :
    (s.raiseAt addr f).txLine = s.txLine := rfl
@[simp] theorem raiseAt_txCalls (addr : Addr) (f : FaultName) :
    (s.raiseAt addr f).txCalls = s.txCalls := rfl
@[simp] theorem raiseAt_fault (addr : Addr) (f : FaultName) :
    (s.raiseAt addr f).fault = { code := faultCode f, call := s.txCalls, addr := addr } := rfl
@[simp] theorem raiseAt_hist (addr : Addr) (f : FaultName) :
    (s.raiseAt addr f).hist = s.hist := rfl
@[simp] theorem raiseAt_result (addr : Addr) (f : FaultName) :
    (s.raiseAt addr f).result = .raised f := rfl
@[simp] theorem raiseAt_port (addr : Addr) (f : FaultName) :
    (s.raiseAt addr f).port = s.port := rfl
@[simp] theorem raiseAt_env (addr : Addr) (f : FaultName) :
    (s.raiseAt addr f).env = s.env := rfl

/-! `State.raise` -/

@[simp] theorem raise_opr (f : FaultName) :
    (s.raise f).opr = s.opr := rfl
@[simp] theorem raise_res (f : FaultName) :
    (s.raise f).res = s.res := rfl
@[simp] theorem raise_txOpen (f : FaultName) :
    (s.raise f).txOpen = s.txOpen := rfl
@[simp] theorem raise_txErr (f : FaultName) :
    (s.raise f).txErr = s.txErr := rfl
@[simp] theorem raise_txBuf (f : FaultName) :
    (s.raise f).txBuf = s.txBuf := rfl
@[simp] theorem raise_txLine (f : FaultName) :
    (s.raise f).txLine = s.txLine := rfl
@[simp] theorem raise_txCalls (f : FaultName) :
    (s.raise f).txCalls = s.txCalls := rfl
@[simp] theorem raise_fault (f : FaultName) :
    (s.raise f).fault = { code := faultCode f, call := s.txCalls, addr := s.opr.arg } := rfl
@[simp] theorem raise_hist (f : FaultName) :
    (s.raise f).hist = s.hist := rfl
@[simp] theorem raise_result (f : FaultName) :
    (s.raise f).result = .raised f := rfl
@[simp] theorem raise_port (f : FaultName) :
    (s.raise f).port = s.port := rfl
@[simp] theorem raise_env (f : FaultName) :
    (s.raise f).env = s.env := rfl

/-! `State.beginSession` -/

@[simp] theorem beginSession_opr :
    (s.beginSession).opr = s.opr := rfl
@[simp] theorem beginSession_res :
    (s.beginSession).res = s.res := rfl
@[simp] theorem beginSession_txOpen :
    (s.beginSession).txOpen = true := rfl
@[simp] theorem beginSession_txErr :
    (s.beginSession).txErr = false := rfl
@[simp] theorem beginSession_txBuf :
    (s.beginSession).txBuf = [] := rfl
@[simp] theorem beginSession_txLine :
    (s.beginSession).txLine = s.txLine := rfl
@[simp] theorem beginSession_txCalls :
    (s.beginSession).txCalls = 0 := rfl
@[simp] theorem beginSession_fault :
    (s.beginSession).fault = s.fault := rfl
@[simp] theorem beginSession_hist :
    (s.beginSession).hist = s.hist ++ [.opened] := rfl
@[simp] theorem beginSession_result :
    (s.beginSession).result = s.result := rfl
@[simp] theorem beginSession_port :
    (s.beginSession).port = s.port := rfl
@[simp] theorem beginSession_env :
    (s.beginSession).env = s.env := rfl

/-! `State.takeIllegal` -/

@[simp] theorem takeIllegal_opr (w : Word32) (rest : List Beat) :
    (s.takeIllegal w rest).opr = s.opr := rfl
@[simp] theorem takeIllegal_res (w : Word32) (rest : List Beat) :
    (s.takeIllegal w rest).res = s.res := rfl
@[simp] theorem takeIllegal_txOpen (w : Word32) (rest : List Beat) :
    (s.takeIllegal w rest).txOpen = s.txOpen := rfl
@[simp] theorem takeIllegal_txErr (w : Word32) (rest : List Beat) :
    (s.takeIllegal w rest).txErr = s.txErr := rfl
@[simp] theorem takeIllegal_txBuf (w : Word32) (rest : List Beat) :
    (s.takeIllegal w rest).txBuf = s.txBuf := rfl
@[simp] theorem takeIllegal_txLine (w : Word32) (rest : List Beat) :
    (s.takeIllegal w rest).txLine = s.txLine := rfl
@[simp] theorem takeIllegal_txCalls (w : Word32) (rest : List Beat) :
    (s.takeIllegal w rest).txCalls = s.txCalls := rfl
@[simp] theorem takeIllegal_fault (w : Word32) (rest : List Beat) :
    (s.takeIllegal w rest).fault = { code := faultCode .illegalCommand, call := s.txCalls, addr := cwArg w } := rfl
@[simp] theorem takeIllegal_hist (w : Word32) (rest : List Beat) :
    (s.takeIllegal w rest).hist = s.hist := rfl
@[simp] theorem takeIllegal_result (w : Word32) (rest : List Beat) :
    (s.takeIllegal w rest).result = .raised .illegalCommand := rfl
@[simp] theorem takeIllegal_port (w : Word32) (rest : List Beat) :
    (s.takeIllegal w rest).port = rest := rfl
@[simp] theorem takeIllegal_env (w : Word32) (rest : List Beat) :
    (s.takeIllegal w rest).env = s.env := rfl

/-! `State.setPort` -/

@[simp] theorem setPort_opr (rest : List Beat) :
    (s.setPort rest).opr = s.opr := rfl
@[simp] theorem setPort_res (rest : List Beat) :
    (s.setPort rest).res = s.res := rfl
@[simp] theorem setPort_txOpen (rest : List Beat) :
    (s.setPort rest).txOpen = s.txOpen := rfl
@[simp] theorem setPort_txErr (rest : List Beat) :
    (s.setPort rest).txErr = s.txErr := rfl
@[simp] theorem setPort_txBuf (rest : List Beat) :
    (s.setPort rest).txBuf = s.txBuf := rfl
@[simp] theorem setPort_txLine (rest : List Beat) :
    (s.setPort rest).txLine = s.txLine := rfl
@[simp] theorem setPort_txCalls (rest : List Beat) :
    (s.setPort rest).txCalls = s.txCalls := rfl
@[simp] theorem setPort_fault (rest : List Beat) :
    (s.setPort rest).fault = s.fault := rfl
@[simp] theorem setPort_hist (rest : List Beat) :
    (s.setPort rest).hist = s.hist := rfl
@[simp] theorem setPort_result (rest : List Beat) :
    (s.setPort rest).result = s.result := rfl
@[simp] theorem setPort_port (rest : List Beat) :
    (s.setPort rest).port = rest := rfl
@[simp] theorem setPort_env (rest : List Beat) :
    (s.setPort rest).env = s.env := rfl

/-! `State.passBeat` -/

@[simp] theorem passBeat_opr (rest : List Beat) :
    (s.passBeat rest).opr = s.opr := rfl
@[simp] theorem passBeat_res (rest : List Beat) :
    (s.passBeat rest).res = s.res := rfl
@[simp] theorem passBeat_txOpen (rest : List Beat) :
    (s.passBeat rest).txOpen = s.txOpen := rfl
@[simp] theorem passBeat_txErr (rest : List Beat) :
    (s.passBeat rest).txErr = s.txErr := rfl
@[simp] theorem passBeat_txBuf (rest : List Beat) :
    (s.passBeat rest).txBuf = s.txBuf := rfl
@[simp] theorem passBeat_txLine (rest : List Beat) :
    (s.passBeat rest).txLine = s.txLine := rfl
@[simp] theorem passBeat_txCalls (rest : List Beat) :
    (s.passBeat rest).txCalls = s.txCalls := rfl
@[simp] theorem passBeat_fault (rest : List Beat) :
    (s.passBeat rest).fault = s.fault := rfl
@[simp] theorem passBeat_hist (rest : List Beat) :
    (s.passBeat rest).hist = s.hist := rfl
@[simp] theorem passBeat_result (rest : List Beat) :
    (s.passBeat rest).result = s.result := rfl
@[simp] theorem passBeat_port (rest : List Beat) :
    (s.passBeat rest).port = rest := rfl
@[simp] theorem passBeat_env (rest : List Beat) :
    (s.passBeat rest).env = s.env := rfl

/-! `State.fail` -/

@[simp] theorem fail_opr (kind : FailKind) (pending : List Byte) :
    (s.fail kind pending).opr = s.opr := rfl
@[simp] theorem fail_res (kind : FailKind) (pending : List Byte) :
    (s.fail kind pending).res = s.res := rfl
@[simp] theorem fail_txOpen (kind : FailKind) (pending : List Byte) :
    (s.fail kind pending).txOpen = s.txOpen := rfl
@[simp] theorem fail_txErr (kind : FailKind) (pending : List Byte) :
    (s.fail kind pending).txErr = true := rfl
@[simp] theorem fail_txBuf (kind : FailKind) (pending : List Byte) :
    (s.fail kind pending).txBuf = [] := rfl
@[simp] theorem fail_txLine (kind : FailKind) (pending : List Byte) :
    (s.fail kind pending).txLine = s.txLine ++ pending.take s.env.prefixNow := rfl
@[simp] theorem fail_txCalls (kind : FailKind) (pending : List Byte) :
    (s.fail kind pending).txCalls = s.txCalls := rfl
@[simp] theorem fail_fault (kind : FailKind) (pending : List Byte) :
    (s.fail kind pending).fault = { code := faultCode .transportError, call := s.txCalls, addr := s.opr.arg } := rfl
@[simp] theorem fail_hist (kind : FailKind) (pending : List Byte) :
    (s.fail kind pending).hist = s.hist ++ [.failed s.txCalls kind] := rfl
@[simp] theorem fail_result (kind : FailKind) (pending : List Byte) :
    (s.fail kind pending).result = .raised .transportError := rfl
@[simp] theorem fail_port (kind : FailKind) (pending : List Byte) :
    (s.fail kind pending).port = s.port := rfl
@[simp] theorem fail_env (kind : FailKind) (pending : List Byte) :
    (s.fail kind pending).env = s.env.afterPrefix := rfl

/-! `State.countCall` -/

@[simp] theorem countCall_opr :
    (s.countCall).opr = s.opr := rfl
@[simp] theorem countCall_res :
    (s.countCall).res = s.res := rfl
@[simp] theorem countCall_txOpen :
    (s.countCall).txOpen = s.txOpen := rfl
@[simp] theorem countCall_txErr :
    (s.countCall).txErr = s.txErr := rfl
@[simp] theorem countCall_txBuf :
    (s.countCall).txBuf = s.txBuf := rfl
@[simp] theorem countCall_txLine :
    (s.countCall).txLine = s.txLine := rfl
@[simp] theorem countCall_txCalls :
    (s.countCall).txCalls = s.txCalls + 1 := rfl
@[simp] theorem countCall_fault :
    (s.countCall).fault = s.fault := rfl
@[simp] theorem countCall_hist :
    (s.countCall).hist = s.hist := rfl
@[simp] theorem countCall_result :
    (s.countCall).result = s.result := rfl
@[simp] theorem countCall_port :
    (s.countCall).port = s.port := rfl
@[simp] theorem countCall_env :
    (s.countCall).env = s.env := rfl

/-! `State.spendOk` -/

@[simp] theorem spendOk_opr :
    (s.spendOk).opr = s.opr := rfl
@[simp] theorem spendOk_res :
    (s.spendOk).res = s.res := rfl
@[simp] theorem spendOk_txOpen :
    (s.spendOk).txOpen = s.txOpen := rfl
@[simp] theorem spendOk_txErr :
    (s.spendOk).txErr = s.txErr := rfl
@[simp] theorem spendOk_txBuf :
    (s.spendOk).txBuf = s.txBuf := rfl
@[simp] theorem spendOk_txLine :
    (s.spendOk).txLine = s.txLine := rfl
@[simp] theorem spendOk_txCalls :
    (s.spendOk).txCalls = s.txCalls := rfl
@[simp] theorem spendOk_fault :
    (s.spendOk).fault = s.fault := rfl
@[simp] theorem spendOk_hist :
    (s.spendOk).hist = s.hist := rfl
@[simp] theorem spendOk_result :
    (s.spendOk).result = s.result := rfl
@[simp] theorem spendOk_port :
    (s.spendOk).port = s.port := rfl
@[simp] theorem spendOk_env :
    (s.spendOk).env = s.env.afterOk := rfl

/-! `State.accept` -/

@[simp] theorem accept_opr (bytes : List Byte) :
    (s.accept bytes).opr = s.opr := rfl
@[simp] theorem accept_res (bytes : List Byte) :
    (s.accept bytes).res = s.res := rfl
@[simp] theorem accept_txOpen (bytes : List Byte) :
    (s.accept bytes).txOpen = s.txOpen := rfl
@[simp] theorem accept_txErr (bytes : List Byte) :
    (s.accept bytes).txErr = s.txErr := rfl
@[simp] theorem accept_txBuf (bytes : List Byte) :
    (s.accept bytes).txBuf = s.txBuf ++ bytes := rfl
@[simp] theorem accept_txLine (bytes : List Byte) :
    (s.accept bytes).txLine = s.txLine := rfl
@[simp] theorem accept_txCalls (bytes : List Byte) :
    (s.accept bytes).txCalls = s.txCalls := rfl
@[simp] theorem accept_fault (bytes : List Byte) :
    (s.accept bytes).fault = s.fault := rfl
@[simp] theorem accept_hist (bytes : List Byte) :
    (s.accept bytes).hist = s.hist ++ [.write s.txCalls bytes] := rfl
@[simp] theorem accept_result (bytes : List Byte) :
    (s.accept bytes).result = s.result := rfl
@[simp] theorem accept_port (bytes : List Byte) :
    (s.accept bytes).port = s.port := rfl
@[simp] theorem accept_env (bytes : List Byte) :
    (s.accept bytes).env = s.env := rfl

/-! `State.drainAll` -/

@[simp] theorem drainAll_opr :
    (s.drainAll).opr = s.opr := rfl
@[simp] theorem drainAll_res :
    (s.drainAll).res = s.res := rfl
@[simp] theorem drainAll_txOpen :
    (s.drainAll).txOpen = s.txOpen := rfl
@[simp] theorem drainAll_txErr :
    (s.drainAll).txErr = s.txErr := rfl
@[simp] theorem drainAll_txBuf :
    (s.drainAll).txBuf = [] := rfl
@[simp] theorem drainAll_txLine :
    (s.drainAll).txLine = s.txLine ++ s.txBuf := rfl
@[simp] theorem drainAll_txCalls :
    (s.drainAll).txCalls = s.txCalls := rfl
@[simp] theorem drainAll_fault :
    (s.drainAll).fault = s.fault := rfl
@[simp] theorem drainAll_hist :
    (s.drainAll).hist = s.hist ++ [.flush] := rfl
@[simp] theorem drainAll_result :
    (s.drainAll).result = s.result := rfl
@[simp] theorem drainAll_port :
    (s.drainAll).port = s.port := rfl
@[simp] theorem drainAll_env :
    (s.drainAll).env = s.env := rfl

/-! `State.setRes` -/

@[simp] theorem setRes_opr (bytes : List Byte) :
    (s.setRes bytes).opr = s.opr := rfl
@[simp] theorem setRes_res (bytes : List Byte) :
    (s.setRes bytes).res = bytes := rfl
@[simp] theorem setRes_txOpen (bytes : List Byte) :
    (s.setRes bytes).txOpen = s.txOpen := rfl
@[simp] theorem setRes_txErr (bytes : List Byte) :
    (s.setRes bytes).txErr = s.txErr := rfl
@[simp] theorem setRes_txBuf (bytes : List Byte) :
    (s.setRes bytes).txBuf = s.txBuf := rfl
@[simp] theorem setRes_txLine (bytes : List Byte) :
    (s.setRes bytes).txLine = s.txLine := rfl
@[simp] theorem setRes_txCalls (bytes : List Byte) :
    (s.setRes bytes).txCalls = s.txCalls := rfl
@[simp] theorem setRes_fault (bytes : List Byte) :
    (s.setRes bytes).fault = s.fault := rfl
@[simp] theorem setRes_hist (bytes : List Byte) :
    (s.setRes bytes).hist = s.hist := rfl
@[simp] theorem setRes_result (bytes : List Byte) :
    (s.setRes bytes).result = s.result := rfl
@[simp] theorem setRes_port (bytes : List Byte) :
    (s.setRes bytes).port = s.port := rfl
@[simp] theorem setRes_env (bytes : List Byte) :
    (s.setRes bytes).env = s.env := rfl

/-! `State.logWait` -/

@[simp] theorem logWait_opr (ms : Nat) :
    (s.logWait ms).opr = s.opr := rfl
@[simp] theorem logWait_res (ms : Nat) :
    (s.logWait ms).res = s.res := rfl
@[simp] theorem logWait_txOpen (ms : Nat) :
    (s.logWait ms).txOpen = s.txOpen := rfl
@[simp] theorem logWait_txErr (ms : Nat) :
    (s.logWait ms).txErr = s.txErr := rfl
@[simp] theorem logWait_txBuf (ms : Nat) :
    (s.logWait ms).txBuf = s.txBuf := rfl
@[simp] theorem logWait_txLine (ms : Nat) :
    (s.logWait ms).txLine = s.txLine := rfl
@[simp] theorem logWait_txCalls (ms : Nat) :
    (s.logWait ms).txCalls = s.txCalls := rfl
@[simp] theorem logWait_fault (ms : Nat) :
    (s.logWait ms).fault = s.fault := rfl
@[simp] theorem logWait_hist (ms : Nat) :
    (s.logWait ms).hist = s.hist ++ [.wait ms] := rfl
@[simp] theorem logWait_result (ms : Nat) :
    (s.logWait ms).result = s.result := rfl
@[simp] theorem logWait_port (ms : Nat) :
    (s.logWait ms).port = s.port := rfl
@[simp] theorem logWait_env (ms : Nat) :
    (s.logWait ms).env = s.env := rfl

/-! `State.release` -/

@[simp] theorem release_opr :
    (s.release).opr = s.opr := rfl
@[simp] theorem release_res :
    (s.release).res = s.res := rfl
@[simp] theorem release_txOpen :
    (s.release).txOpen = false := rfl
@[simp] theorem release_txErr :
    (s.release).txErr = s.txErr := rfl
@[simp] theorem release_txBuf :
    (s.release).txBuf = [] := rfl
@[simp] theorem release_txLine :
    (s.release).txLine = s.txLine ++ s.txBuf.take s.env.prefixNow := rfl
@[simp] theorem release_txCalls :
    (s.release).txCalls = s.txCalls := rfl
@[simp] theorem release_fault :
    (s.release).fault = s.fault := rfl
@[simp] theorem release_hist :
    (s.release).hist = s.hist ++ [.closed] := rfl
@[simp] theorem release_result :
    (s.release).result = s.result := rfl
@[simp] theorem release_port :
    (s.release).port = s.port := rfl
@[simp] theorem release_env :
    (s.release).env = s.env.afterPrefix := rfl

/-! `State.drainMoment` (41_transport.md R96): every field but `TX.buf`, `TX.line` and the environment is kept. -/

@[simp] theorem drainMoment_opr : s.drainMoment.opr = s.opr := by
  unfold State.drainMoment; split <;> rfl
@[simp] theorem drainMoment_res : s.drainMoment.res = s.res := by
  unfold State.drainMoment; split <;> rfl
@[simp] theorem drainMoment_txOpen : s.drainMoment.txOpen = s.txOpen := by
  unfold State.drainMoment; split <;> rfl
@[simp] theorem drainMoment_txErr : s.drainMoment.txErr = s.txErr := by
  unfold State.drainMoment; split <;> rfl
@[simp] theorem drainMoment_txCalls : s.drainMoment.txCalls = s.txCalls := by
  unfold State.drainMoment; split <;> rfl
@[simp] theorem drainMoment_fault : s.drainMoment.fault = s.fault := by
  unfold State.drainMoment; split <;> rfl
@[simp] theorem drainMoment_hist : s.drainMoment.hist = s.hist := by
  unfold State.drainMoment; split <;> rfl
@[simp] theorem drainMoment_result : s.drainMoment.result = s.result := by
  unfold State.drainMoment; split <;> rfl
@[simp] theorem drainMoment_port : s.drainMoment.port = s.port := by
  unfold State.drainMoment; split <;> rfl

end Updates

/-! The environment's answers. -/

@[simp] theorem okNow_cons (b : Bool) (l : List Bool) (p d : List Nat) (n : Nat) :
    Env.okNow { oks := b :: l, prefixes := p, drains := d, drawn := n } = b := rfl

@[simp] theorem prefixNow_cons (k : Nat) (o : List Bool) (l d : List Nat) (n : Nat) :
    Env.prefixNow { oks := o, prefixes := k :: l, drains := d, drawn := n } = k := rfl

@[simp] theorem drainNow_cons (k : Nat) (o : List Bool) (p l : List Nat) (n : Nat) :
    Env.drainNow { oks := o, prefixes := p, drains := k :: l, drawn := n } = k := rfl

theorem okNow_of_cons {e : Env} {b : Bool} {l : List Bool} (h : e.oks = b :: l) : e.okNow = b := by
  simp [Env.okNow, h]

theorem prefixNow_of_cons {e : Env} {k : Nat} {l : List Nat} (h : e.prefixes = k :: l) : e.prefixNow = k := by
  simp [Env.prefixNow, h]

theorem drainNow_of_cons {e : Env} {k : Nat} {l : List Nat} (h : e.drains = k :: l) : e.drainNow = k := by
  simp [Env.drainNow, h]

@[simp] theorem afterOk_oks (e : Env) : e.afterOk.oks = e.oks.tail := rfl
@[simp] theorem afterOk_prefixes (e : Env) : e.afterOk.prefixes = e.prefixes := rfl
@[simp] theorem afterOk_drains (e : Env) : e.afterOk.drains = e.drains := rfl
@[simp] theorem afterPrefix_oks (e : Env) : e.afterPrefix.oks = e.oks := rfl
@[simp] theorem afterPrefix_prefixes (e : Env) : e.afterPrefix.prefixes = e.prefixes.tail := rfl
@[simp] theorem afterPrefix_drains (e : Env) : e.afterPrefix.drains = e.drains := rfl
@[simp] theorem afterDrain_oks (e : Env) : e.afterDrain.oks = e.oks := rfl
@[simp] theorem afterDrain_prefixes (e : Env) : e.afterDrain.prefixes = e.prefixes := rfl
@[simp] theorem afterDrain_drains (e : Env) : e.afterDrain.drains = e.drains.tail := rfl

end Sys2Proof.Machine
end

