-- ==== Sys2Proof/Laws/Ops.lean ====
section
/-! SUPPORT. One lemma per shared operation that says once everything it can do; later proofs cite these and do not unfold the
operations. -/

namespace Sys2Proof.Machine

/-- A moment of the drain agent does nothing, or moves a prefix of the buffer to the line (41_transport.md R96). -/
theorem drainMoment_cases (s : State) :
    s.drainMoment = s ∨
    (s.txOpen = true ∧ s.txErr = false ∧ s.txBuf ≠ [] ∧
      s.drainMoment = { s with
        txLine := s.txLine ++ s.txBuf.take s.env.drainNow
        txBuf := s.txBuf.drop s.env.drainNow
        env := s.env.afterDrain }) := by
  unfold State.drainMoment
  split
  · next h =>
    simp only [Bool.and_eq_true, Bool.not_eq_true', List.isEmpty_eq_false_iff] at h
    exact .inr ⟨h.1.1, h.1.2, h.2, rfl⟩
  · exact .inl rfl

/-- A drain moment loses and reorders nothing. -/
@[simp] theorem drainMoment_line_buf (s : State) :
    s.drainMoment.txLine ++ s.drainMoment.txBuf = s.txLine ++ s.txBuf := by
  rcases drainMoment_cases s with h | ⟨-, -, -, h⟩ <;> simp [h]

/-- With an empty buffer the drain agent does not act. -/
theorem drainMoment_of_empty {s : State} (h : s.txBuf = []) : s.drainMoment = s := by
  simp [State.drainMoment, h]

/-- While the transport is closed the drain agent does not act. -/
theorem drainMoment_of_closed {s : State} (h : s.txOpen = false) : s.drainMoment = s := by
  simp [State.drainMoment, h]

/-- After a failure the drain agent does not act. -/
theorem drainMoment_of_failed {s : State} (h : s.txErr = true) : s.drainMoment = s := by
  simp [State.drainMoment, h]

/-- A composite goes on exactly when the part before ended without fault (41_transport.md R95). -/
theorem andThen_done {s : State} (next : State → State) (h : s.result = .done) : s.andThen next = next s := by
  simp [State.andThen, h]

theorem andThen_raised {s : State} {f : FaultName} (next : State → State) (h : s.result = .raised f) :
    s.andThen next = s := by
  simp [State.andThen, h]

/-- The operand check of `ENCT` and `SEND` passes exactly on `1 ≤ n ≤ MAX_PAYLOAD` (40_encoder.md R81). -/
theorem payloadFault_eq_none {payload : List Byte} :
    payloadFault payload = none ↔ payload ≠ [] ∧ payload.length ≤ Config.maxPayload := by
  unfold payloadFault
  split
  · next h => simp [List.length_eq_zero_iff.mp h]
  · next h =>
    have : payload ≠ [] := fun e => h (by simp [e])
    split <;> simp_all

/-- Everything `TXW` can do (41_transport.md R92). -/
theorem writeBytes_cases (bytes : List Byte) (s : State) :
    (s.txOpen = false ∧ writeBytes bytes s = s.raise .notOpen) ∨
    (s.txOpen = true ∧ s.txErr = true ∧ writeBytes bytes s = s.raise .sessionFailed) ∨
    (s.txOpen = true ∧ s.txErr = false ∧ s.env.okNow = true ∧
      writeBytes bytes s = (s.countCall.spendOk.accept bytes).finish) ∨
    (s.txOpen = true ∧ s.txErr = false ∧ s.env.okNow = false ∧
      writeBytes bytes s = s.countCall.spendOk.fail .write (s.txBuf ++ bytes)) := by
  unfold writeBytes
  rcases ho : s.txOpen <;> rcases he : s.txErr <;> rcases hk : s.env.okNow <;> simp

/-- Everything `TXF` can do (41_transport.md R93). -/
theorem flushBytes_cases (s : State) :
    (s.txOpen = false ∧ flushBytes s = s.raise .notOpen) ∨
    (s.txOpen = true ∧ s.txErr = true ∧ flushBytes s = s.raise .sessionFailed) ∨
    (s.txOpen = true ∧ s.txErr = false ∧ s.env.okNow = true ∧ flushBytes s = s.spendOk.drainAll.finish) ∨
    (s.txOpen = true ∧ s.txErr = false ∧ s.env.okNow = false ∧
      flushBytes s = s.spendOk.fail .flush s.txBuf) := by
  unfold flushBytes
  rcases ho : s.txOpen <;> rcases he : s.txErr <;> rcases hk : s.env.okNow <;> simp

/-- Everything `TXO` can do (41_transport.md R91). -/
theorem openTransport_cases (s : State) :
    (s.txOpen = true ∧ openTransport s = s.raise .alreadyOpen) ∨
    (s.txOpen = false ∧ openTransport s = s.beginSession.finish) := by
  unfold openTransport
  rcases ho : s.txOpen <;> simp

/-- Everything `TXC` can do (41_transport.md R94). -/
theorem closeTransport_cases (s : State) :
    (s.txOpen = false ∧ closeTransport s = s.raise .notOpen) ∨
    (s.txOpen = true ∧ closeTransport s = s.release.finish) := by
  unfold closeTransport
  rcases ho : s.txOpen <;> simp

/-- Everything the operand stage of `ENCT` and `SEND` can do (40_encoder.md R81). -/
theorem encodeFrame_cases (addr : Addr) (payload : List Byte) (s : State) :
    (∃ f, payloadFault payload = some f ∧ encodeFrame addr payload s = s.raise f) ∨
    (payloadFault payload = none ∧
      encodeFrame addr payload s = (s.setRes (encTransaction Config.line addr payload)).finish) := by
  unfold encodeFrame
  split
  · next f h => exact .inl ⟨f, h, rfl⟩
  · next h => exact .inr ⟨h, rfl⟩

/-- Everything `SEND` can do, in the order of its parts (41_transport.md R95): the operand fault; the refusals of the
transport; a failing write; a failing flush; the whole frame on the line. -/
theorem sendFrame_cases (addr : Addr) (payload : List Byte) (s : State) :
    (∃ f, payloadFault payload = some f ∧ sendFrame addr payload s = s.raise f) ∨
    (payloadFault payload = none ∧
      ∃ s1, s1 = (s.setRes (encTransaction Config.line addr payload)).finish ∧
      ((s.txOpen = false ∧ sendFrame addr payload s = s1.raise .notOpen) ∨
       (s.txOpen = true ∧ s.txErr = true ∧ sendFrame addr payload s = s1.raise .sessionFailed) ∨
       (s.txOpen = true ∧ s.txErr = false ∧ s.env.okNow = false ∧
         sendFrame addr payload s =
           s1.countCall.spendOk.fail .write (s.txBuf ++ encTransaction Config.line addr payload)) ∨
       (s.txOpen = true ∧ s.txErr = false ∧ s.env.okNow = true ∧ s.env.afterOk.okNow = false ∧
         sendFrame addr payload s =
           (s1.countCall.spendOk.accept (encTransaction Config.line addr payload)).finish.spendOk.fail .flush
             (s.txBuf ++ encTransaction Config.line addr payload)) ∨
       (s.txOpen = true ∧ s.txErr = false ∧ s.env.okNow = true ∧ s.env.afterOk.okNow = true ∧
         sendFrame addr payload s =
           (s1.countCall.spendOk.accept
             (encTransaction Config.line addr payload)).finish.spendOk.drainAll.finish))) := by
  rcases encodeFrame_cases addr payload s with ⟨f, hf, he⟩ | ⟨hf, he⟩
  · refine .inl ⟨f, hf, ?_⟩
    simp [sendFrame, he, andThen_raised]
  · refine .inr ⟨hf, _, rfl, ?_⟩
    unfold sendFrame
    rw [he, andThen_done (writeBytes (encTransaction Config.line addr payload)) rfl]
    rcases writeBytes_cases (encTransaction Config.line addr payload)
        (s.setRes (encTransaction Config.line addr payload)).finish
      with ⟨ho, hw⟩ | ⟨ho, hr, hw⟩ | ⟨ho, hr, hk, hw⟩ | ⟨ho, hr, hk, hw⟩
    · exact .inl ⟨ho, by rw [hw, andThen_raised (f := .notOpen) _ rfl]⟩
    · exact .inr (.inl ⟨ho, hr, by rw [hw, andThen_raised (f := .sessionFailed) _ rfl]⟩)
    · have hd : (writeBytes (encTransaction Config.line addr payload)
          (s.setRes (encTransaction Config.line addr payload)).finish).result = .done := by
        rw [hw]; rfl
      rw [andThen_done _ hd, hw]
      rcases flushBytes_cases
          ((s.setRes (encTransaction Config.line addr payload)).finish.countCall.spendOk.accept
            (encTransaction Config.line addr payload)).finish
        with ⟨ho', -⟩ | ⟨-, hr', -⟩ | ⟨-, -, hk', hfl⟩ | ⟨-, -, hk', hfl⟩
      · simp_all
      · simp_all
      · exact .inr (.inr (.inr (.inr ⟨ho, hr, hk, hk', hfl⟩)))
      · exact .inr (.inr (.inr (.inl ⟨ho, hr, hk, hk', hfl⟩)))
    · exact .inr (.inr (.inl ⟨ho, hr, hk, by rw [hw, andThen_raised (f := .transportError) _ rfl]; rfl⟩))

end Sys2Proof.Machine
end

