-- ==== Sys2Proof/Laws/Host.lean ====
section
/-! SUPPORT. The arms of `exec`, the host that issues operations, and the actions of the host program, each with its small lemmas. -/

namespace Sys2Proof.Machine

@[simp] theorem exec_encb (b : Byte) (s : State) :
    exec (.encb b) s = .next (encodeByte b (s.latch 0x1#4 (byteArg b) [])) := rfl
@[simp] theorem exec_enct (addr : Addr) (payload : List Byte) (s : State) :
    exec (.enct addr payload) s = .next (encodeFrame addr payload (s.latch 0x2#4 addr payload)) := rfl
@[simp] theorem exec_send (addr : Addr) (payload : List Byte) (s : State) :
    exec (.send addr payload) s = .next (sendFrame addr payload (s.latch 0x3#4 addr payload)) := rfl
@[simp] theorem exec_txw (bytes : List Byte) (s : State) :
    exec (.txw bytes) s = .next (writeBytes bytes (s.latch 0x4#4 0#24 bytes)) := rfl
@[simp] theorem exec_txf (s : State) : exec .txf s = .next (flushBytes (s.latch 0x5#4 0#24 [])) := rfl
@[simp] theorem exec_txo (s : State) : exec .txo s = .next (openTransport (s.latch 0x6#4 0#24 [])) := rfl
@[simp] theorem exec_txc (s : State) : exec .txc s = .next (closeTransport (s.latch 0x7#4 0#24 [])) := rfl
@[simp] theorem exec_dly (ms : Addr) (s : State) :
    exec (.dly ms) s = .next (recordWait ms (s.latch 0x8#4 ms [])) := rfl

/-- Every operation ends in a next state (60_exceptions.md R158). -/
theorem exec_next (i : Instr) (s : State) : ∃ t, exec i s = .next t := by
  cases i <;> exact ⟨_, rfl⟩

theorem hostIssue_next (i : Instr) (s : State) : ∃ t, hostIssue i s = .next t := exec_next i _

@[simp] theorem issueAll_nil (s : State) : issueAll [] s = .next s := rfl

/-- An operation that ends without fault is followed by the rest. -/
theorem issueAll_done {i : Instr} {rest : List Instr} {s t : State} (h : hostIssue i s = .next t)
    (hr : t.result = .done) : issueAll (i :: rest) s = issueAll rest t := by
  simp [issueAll, h, hr]

/-- An operation that raises a fault is the last one issued (60_exceptions.md R158). -/
theorem issueAll_raised {i : Instr} {rest : List Instr} {s t : State} {f : FaultName}
    (h : hostIssue i s = .next t) (hr : t.result = .raised f) : issueAll (i :: rest) s = .next t := by
  simp [issueAll, h, hr]

theorem issueAll_next (ops : List Instr) (s : State) : ∃ t, issueAll ops s = .next t := by
  induction ops generalizing s with
  | nil => exact ⟨s, rfl⟩
  | cons i ops ih =>
    obtain ⟨t, ht⟩ := hostIssue_next i s
    rcases hr : t.result with _ | _ | f
    · exact ⟨t, by simp [issueAll, ht, hr]⟩
    · obtain ⟨u, hu⟩ := ih t
      exact ⟨u, by rw [issueAll_done ht hr, hu]⟩
    · exact ⟨t, issueAll_raised ht hr⟩

/-- An action that is an operation ending without fault is followed by the rest. -/
theorem runActions_done {i : Instr} {rest : List HostAction} {fp : ProgSession} {s t : State}
    (h : hostIssue i s = .next t) (hr : t.result = .done) :
    runActions (.issue i :: rest) fp s = runActions rest fp t := by
  simp [runActions, h, hr]

/-- An action that is an operation raising a fault aborts the run (43_flash_programmer.md R139). -/
theorem runActions_raised {i : Instr} {rest : List HostAction} {fp : ProgSession} {s t : State} {f : FaultName}
    (h : hostIssue i s = .next t) (hr : t.result = .raised f) :
    runActions (.issue i :: rest) fp s = .next (abortRun fp t) := by
  simp [runActions, h, hr]

/-- Every host program ends. -/
theorem runActions_next (as : List HostAction) (fp : ProgSession) (s : State) :
    ∃ e, runActions as fp s = .next e := by
  induction as generalizing fp s with
  | nil => exact ⟨_, rfl⟩
  | cons a as ih =>
    cases a with
    | enter st => exact ih _ s
    | setCursor off => exact ih _ s
    | setErased off => exact ih _ s
    | readClock now => exact ih _ s
    | issue i =>
      obtain ⟨t, ht⟩ := hostIssue_next i s
      rcases hr : t.result with _ | _ | f
      · exact ⟨abortRun fp t, by simp [runActions, ht, hr]⟩
      · obtain ⟨e, he⟩ := ih fp t
        exact ⟨e, by rw [runActions_done ht hr, he]⟩
      · exact ⟨_, runActions_raised ht hr⟩

@[simp] theorem actionOps_append (l m : List HostAction) : actionOps (l ++ m) = actionOps l ++ actionOps m := by
  induction l with
  | nil => rfl
  | cons a l ih => cases a <;> simp [actionOps, ih]

@[simp] theorem actionOps_issues (ops : List Instr) : actionOps (issues ops) = ops := by
  induction ops with
  | nil => rfl
  | cons i ops ih => simpa [issues, actionOps] using ih

@[simp] theorem labelledOps_issues (ops : List Instr) (rest : List HostAction) (fp : ProgSession) :
    labelledOps (issues ops ++ rest) fp =
      ops.map (fun i => { step := fp.state, offset := errorOffset fp, op := i }) ++ labelledOps rest fp := by
  induction ops with
  | nil => rfl
  | cons i ops ih => simpa [issues, labelledOps] using ih

/-- Labelling adds to each operation and drops none. -/
@[simp] theorem labelledOps_op (as : List HostAction) (fp : ProgSession) :
    (labelledOps as fp).map (·.op) = actionOps as := by
  induction as generalizing fp with
  | nil => rfl
  | cons a as ih => cases a <;> simp [labelledOps, actionOps, ih]

@[simp] theorem callCount_append (l m : List Instr) : callCount (l ++ m) = callCount l + callCount m := by
  simp [callCount]

end Sys2Proof.Machine
end

