-- ==== Sys2Proof/Laws/LineCode.lean ====
section
/-! SUPPORT. Small lemmas about the line code: lengths, the marked first block, the frame as its blocks. -/

namespace Sys2Proof.Machine

@[simp] theorem encByte_length (c : LineCode) (b : Byte) : (encByte c b).length = 10 := rfl

@[simp] theorem addressBytes_length (addr : Addr) : (addressBytes addr).length = 3 := rfl

@[simp] theorem logicalBytes_length (c : LineCode) (addr : Addr) (payload : List Byte) :
    (logicalBytes c addr payload).length = payload.length + 6 := by
  simp [logicalBytes]; omega

/-- The blocks of `n` logical bytes are `10n` symbols. -/
@[simp] theorem flatMap_encByte_length (c : LineCode) (l : List Byte) :
    (l.flatMap (encByte c)).length = l.length * 10 := by
  induction l with
  | nil => rfl
  | cons b l ih => simp [ih]; omega

@[simp] theorem encTransaction_length (c : LineCode) (addr : Addr) (payload : List Byte) :
    (encTransaction c addr payload).length = (payload.length + 6) * 10 := by
  simp [encTransaction]

/-- The block of a logical byte with the marker override (30_encoding.md R63). -/
def markedBlock (c : LineCode) (b : Byte) : List Byte := (encByte c b).set 0 c.symA

/-- The blocks between the two marked ones (30_encoding.md R61, blocks 1 to n+4). -/
def innerBlocks (c : LineCode) (addr : Addr) (payload : List Byte) : List Byte :=
  (addressBytes addr ++ [Config.pad] ++ payload).flatMap (encByte c)

@[simp] theorem markedBlock_length (c : LineCode) (b : Byte) : (markedBlock c b).length = 10 := rfl

@[simp] theorem innerBlocks_length (c : LineCode) (addr : Addr) (payload : List Byte) :
    (innerBlocks c addr payload).length = (payload.length + 4) * 10 := by
  simp only [innerBlocks, flatMap_encByte_length, List.length_append, addressBytes_length, List.length_singleton]
  omega

/-- A frame is the marked START block, the inner blocks and the marked STOP block (30_encoding.md R61, R63). -/
theorem encTransaction_eq (c : LineCode) (addr : Addr) (payload : List Byte) :
    encTransaction c addr payload =
      markedBlock c c.startMark ++ innerBlocks c addr payload ++ markedBlock c c.stopMark := by
  have h0 : (logicalBytes c addr payload).flatMap (encByte c) =
      encByte c c.startMark ++ (innerBlocks c addr payload ++ encByte c c.stopMark) := by
    simp [logicalBytes, innerBlocks]
  simp only [encTransaction, h0]
  rw [List.set_append_left _ _ (by simp), ← List.append_assoc, List.set_append_right _ _ (by simp; omega)]
  simp only [markedBlock, List.length_append, List.length_set, encByte_length, innerBlocks_length]
  rw [show (payload.length + 5) * 10 - (10 + (payload.length + 4) * 10) = 0 by omega]

end Sys2Proof.Machine
end

