-- ==== Sys2Proof/Laws/PerInstr.lean ====
section
/-! SUPPORT. Statements made per instruction, one lemma per constructor of `Instr`. -/

namespace Sys2Proof.Laws

/-- The command word of an operation is legal (30_encoding.md R67) and carries the operation's `op` code, `rsv = 0` and its
`arg` field (30_encoding.md R65). -/
def LegalWord.Statement (i : Instr) : Prop :=
  illegalReason (commandWord i.opCode i.argField) = none ∧
  cwOp (commandWord i.opCode i.argField) = i.opCode ∧
  cwRsv (commandWord i.opCode i.argField) = 0 ∧
  cwArg (commandWord i.opCode i.argField) = i.argField

theorem LegalWord.encb (b : Byte) : LegalWord.Statement (.encb b) := by
  have h : (b.setWidth 24).extractLsb' 8 16 = 0 := by
    ext i hi; simp
  simp [LegalWord.Statement, illegalReason, Instr.opCode, Instr.argField, h]

theorem LegalWord.enct (addr : Addr) (payload : List Byte) : LegalWord.Statement (.enct addr payload) := by
  simp [LegalWord.Statement, illegalReason, Instr.opCode]

theorem LegalWord.send (addr : Addr) (payload : List Byte) : LegalWord.Statement (.send addr payload) := by
  simp [LegalWord.Statement, illegalReason, Instr.opCode]

theorem LegalWord.txw (bytes : List Byte) : LegalWord.Statement (.txw bytes) := by
  simp [LegalWord.Statement, illegalReason, Instr.opCode, Instr.argField]

theorem LegalWord.txf : LegalWord.Statement .txf := by
  simp [LegalWord.Statement, illegalReason, Instr.opCode, Instr.argField]

theorem LegalWord.txo : LegalWord.Statement .txo := by
  simp [LegalWord.Statement, illegalReason, Instr.opCode, Instr.argField]

theorem LegalWord.txc : LegalWord.Statement .txc := by
  simp [LegalWord.Statement, illegalReason, Instr.opCode, Instr.argField]

theorem LegalWord.dly (ms : Addr) : LegalWord.Statement (.dly ms) := by
  simp [LegalWord.Statement, illegalReason, Instr.opCode]

end Sys2Proof.Laws
end

