-- ==== Sys2Proof/Laws/Step.lean ====
section
/-! SUPPORT. What a step can do, said once; runs of the machine, one step at a time. -/

namespace Sys2Proof.Machine

/-- Everything a step that answers a next state can have done (30_encoding.md R65 to R67, 41_transport.md R90, R96). -/
theorem step_cases {s t : State} (h : step s = .next t) :
    (∃ i rest, decodeBeats s.port = .instr i rest ∧ exec i (s.drainMoment.setPort rest) = .next t) ∨
    (∃ why w rest, decodeBeats s.port = .illegal why w rest ∧ t = s.drainMoment.takeIllegal w rest) ∨
    (∃ rest, decodeBeats s.port = .stray rest ∧ t = s.drainMoment.passBeat rest) ∨
    (decodeBeats s.port = .awaiting ∧ t = s.drainMoment) := by
  unfold step at h
  split at h
  · next i rest hd => exact .inl ⟨i, rest, hd, h⟩
  · next why w rest hd => exact .inr (.inl ⟨why, w, rest, hd, by simpa using h.symm⟩)
  · next rest hd => exact .inr (.inr (.inl ⟨rest, hd, by simpa using h.symm⟩))
  · next hd => exact .inr (.inr (.inr ⟨hd, by simpa using h.symm⟩))
  · simp at h
  · simp at h

/-- A run of one more step of any machine is a step and then the run. -/
theorem coreRun_succ {M : Host.Core} {k : Nat} {s t : M.State} (h : M.run (k + 1) s = .next t) :
    ∃ u, M.step s = .next u ∧ M.run k u = .next t := by
  rw [Host.Core.run] at h
  split at h
  · next u hu => exact ⟨u, hu, h⟩
  · simp at h
  · simp at h

/-- A run of one more step is a step and then the run. -/
theorem run_succ {k : Nat} {s t : State} (h : Sys2Proof.core.run (k + 1) s = .next t) :
    ∃ u : State, step s = .next u ∧ Sys2Proof.core.run k u = .next t :=
  coreRun_succ (M := Sys2Proof.core) h

theorem run_zero {s t : State} (h : Sys2Proof.core.run 0 s = .next t) : t = s := by
  have h' : Host.Outcome.next (φ := Fault) (ρ := Refusal) s = .next t := h
  simpa using h'.symm

/-- Every relation that is reflexive and transitive and holds between a state and its next state holds along every run. -/
theorem run_induct (R : State → State → Prop) (refl : ∀ s, R s s) (trans : ∀ s t u, R s t → R t u → R s u)
    (one : ∀ s t, step s = .next t → R s t) :
    ∀ (k : Nat) (s t : State), Sys2Proof.core.run k s = .next t → R s t := by
  intro k
  induction k with
  | zero =>
    intro s t h
    rw [run_zero h]
    exact refl s
  | succ k ih =>
    intro s t h
    obtain ⟨u, hu, hr⟩ := run_succ h
    exact trans s u t (one s u hu) (ih u t hr)

end Sys2Proof.Machine
end

