-- ==== Sys2Proof/Laws/Safety.lean ====
section
/-! SUPPORT. Small lemmas about histories: each reading of `HIST` over an appended event or history. -/

namespace Sys2Proof.Safety

open Sys2Proof.Machine

@[simp] theorem sessionView_nil : sessionView [] = { opened := false, failed := false, calls := 0 } := rfl

@[simp] theorem sessionView_snoc (h : List Event) (e : Event) :
    sessionView (h ++ [e]) = (sessionView h).after e := by
  simp [sessionView]

@[simp] theorem callsNumbered_nil (v : SessionView) : callsNumbered v [] := trivial

theorem callsNumbered_append (v : SessionView) (h g : List Event) :
    callsNumbered v (h ++ g) ↔ callsNumbered v h ∧ callsNumbered (h.foldl SessionView.after v) g := by
  induction h generalizing v with
  | nil => simp
  | cons e h ih => simp [callsNumbered, ih, and_assoc]

@[simp] theorem sessionBytes_nil : sessionBytes [] = [] := rfl

@[simp] theorem sessionBytes_snoc (h : List Event) (e : Event) :
    sessionBytes (h ++ [e]) = bytesAfter (sessionBytes h) e := by
  simp [sessionBytes]

/-- Without an `EvOpen`, a history's bytes stand after those written before it. -/
theorem foldl_bytesAfter (g : List Event) (w : List Byte) (h : ∀ e ∈ g, e ≠ .opened) :
    g.foldl bytesAfter w = w ++ sessionBytes g := by
  induction g generalizing w with
  | nil => simp
  | cons e g ih =>
    have h' : ∀ e ∈ g, e ≠ Event.opened := fun x hx => h x (List.mem_cons_of_mem _ hx)
    cases e with
    | opened => exact absurd rfl (h _ List.mem_cons_self)
    | write k b =>
      have hb := ih b h'
      simp only [sessionBytes, List.foldl_cons, bytesAfter, List.nil_append] at hb ⊢
      rw [hb, ih _ h', List.append_assoc, sessionBytes]
    | flush => exact ih w h'
    | wait ms => exact ih w h'
    | failed k kind => exact ih w h'
    | closed => exact ih w h'

theorem sessionBytes_append (h g : List Event) (hg : ∀ e ∈ g, e ≠ .opened) :
    sessionBytes (h ++ g) = sessionBytes h ++ sessionBytes g := by
  rw [← foldl_bytesAfter g _ hg, sessionBytes, List.foldl_append, ← sessionBytes]

@[simp] theorem shapes_nil : shapes [] = [] := rfl

@[simp] theorem shapes_cons (i : Instr) (ops : List Instr) : shapes (i :: ops) = opShapes i ++ shapes ops := by
  simp [shapes]

@[simp] theorem shapes_append (l m : List Instr) : shapes (l ++ m) = shapes l ++ shapes m := by
  simp [shapes]

@[simp] theorem writesOf_append (h g : List Event) : writesOf (h ++ g) = writesOf h ++ writesOf g := by
  simp [writesOf]

@[simp] theorem writesOf_nil : writesOf [] = [] := rfl

@[simp] theorem sinceOpen_nil : sinceOpen [] = [] := rfl

@[simp] theorem sinceOpen_snoc (h : List Event) (e : Event) :
    sinceOpen (h ++ [e]) = eventsAfter (sinceOpen h) e := by
  simp [sinceOpen]

/-- A history in which no session begins is its own session. -/
theorem sinceOpen_of_no_open (h : List Event) (hh : ∀ e ∈ h, e ≠ .opened) : sinceOpen h = h := by
  induction h using List.reverseRecOn with
  | nil => rfl
  | append_singleton h e ih =>
    rw [sinceOpen_snoc, ih fun x hx => hh x (by simp [hx])]
    cases e with
    | opened => exact absurd rfl (hh _ (by simp))
    | write k b => rfl
    | flush => rfl
    | wait ms => rfl
    | failed k kind => rfl
    | closed => rfl

/-- What stands next is followed by nothing but a failure, or goes on. -/
theorem follows_append (expected rest : List Event) : Follows (expected ++ rest) expected :=
  .inl (List.prefix_append _ _)

theorem follows_cut {begun expected : List Event} (h : begun <+: expected) (kind : FailKind) (rest : List Event) :
    Follows (begun ++ .failed 0 kind :: rest) expected :=
  .inr ⟨begun, kind, rest, h, rfl⟩

/-- An operation of the command layer issued on an open idle transport: carried out, with its frame on the line and its events in
the history; or ended by a failing write, or by a failing flush. -/
theorem hostIssue_layer {i : Instr} {s : State} (hi : LayerOp i) (hr : ReadyTransport s) :
    ∃ t new, hostIssue i s = .next t ∧ t.hist = s.hist ++ new ∧ t.port = s.port ∧
      ((t.result = .done ∧ ReadyTransport t ∧ t.txLine = s.txLine ++ opFrame i ∧ t.txCalls = s.txCalls + opCalls i ∧
          new.map shape = opShapes i ∧ t.fault = s.fault) ∨
        (t.result = .raised .transportError ∧ t.txErr = true ∧ t.txOpen = true ∧ t.txBuf = [] ∧
          t.fault = { code := 7, call := s.txCalls + 1, addr := i.argField } ∧
          (new.map shape = [.failed 0 .write] ∨ new.map shape = [.write 0 (opFrame i), .failed 0 .flush]))) := by
  obtain ⟨ho, he, hb⟩ := hr
  have hd : s.drainMoment = s := drainMoment_of_empty hb
  cases i with
  | send a p =>
    have hp : payloadFault p = none := payloadFault_eq_none.mpr hi
    rcases sendFrame_cases a p (s.latch 0x3#4 a p) with
      ⟨f, hf, _⟩ | ⟨_, s1, rfl, ⟨hx, e⟩ | ⟨_, hx, e⟩ | ⟨_, _, hk, e⟩ | ⟨_, _, hk, hk2, e⟩ | ⟨_, _, hk, hk2, e⟩⟩
    · rw [hp] at hf; cases hf
    · simp [ho] at hx
    · simp [he] at hx
    · refine ⟨_, [.failed (s.txCalls + 1) .write], by rw [hostIssue, hd, exec_send, e], ?_⟩
      simp [faultCode, ho, shape, Instr.argField]
    · refine ⟨_, [.write (s.txCalls + 1) (encTransaction Config.line a p), .failed (s.txCalls + 1) .flush],
        by rw [hostIssue, hd, exec_send, e], ?_⟩
      simp [faultCode, ho, shape, opFrame, Instr.argField]
    · refine ⟨_, [.write (s.txCalls + 1) (encTransaction Config.line a p), .flush],
        by rw [hostIssue, hd, exec_send, e], ?_, ?_, .inl ⟨rfl, ⟨?_, ?_, rfl⟩, ?_⟩⟩ <;>
        simp [ho, he, hb, opFrame, opCalls, shape, opShapes]
  | dly ms =>
    refine ⟨_, [.wait ms.toNat], by rw [hostIssue, hd, exec_dly], ?_, ?_, .inl ⟨rfl, ⟨?_, ?_, ?_⟩, ?_⟩⟩ <;>
      simp [ho, he, hb, opFrame, opCalls, shape, opShapes, recordWait]
  | encb _ => exact hi.elim
  | enct _ _ => exact hi.elim
  | txw _ => exact hi.elim
  | txf => exact hi.elim
  | txo => exact hi.elim
  | txc => exact hi.elim

/-- A change outside the transport, the line and the history keeps the invariant. -/
theorem TransportInv.of_kept {s t : State} (h : TransportInv s) (k : TransportKept s t) : TransportInv t := by
  obtain ⟨h1, h2, h3, h4, h5⟩ := h
  obtain ⟨a, b, c, d, e, f⟩ := k
  constructor <;> simp_all

end Sys2Proof.Safety
end

