-- ==== Sys2Proof/Tests/Slice0.lean ====
section
/-! SUPPORT. The model's own tests: words written out from the spec's encodings, the vectors of 95_test_vectors.md, the refusals
of WellFormed, and for each statement with hypotheses a state and operands that meet them (test_meets_…). -/

namespace Sys2Proof.Tests

open Sys2Proof.Machine Sys2Proof.Safety

/-- The candidate line code of 93_implementation_defined.md G1, G2, used for vectors only. -/
def candidate : LineCode := { symA := 0x80, symD := 0xFE, startMark := 0x5A, stopMark := 0xFF }

/-- Any constants; the values of 93_implementation_defined.md G3 where it recalls one. -/
def constants : CommandConstants :=
  { aCsOn := 0x0D, vCsOn := 0, aCsOff := 0x0D, vCsOff := 1, aFdata := 0x0C, opWren := 6, opPp := 2, opWrsr := 1,
    opSe := 0x20, opWake := 0xAB, srUnlock := 9, aSwsid := 0xB3, vFifoOn := 0x80, vFifoOff := 0, aCpuctl := 0x602,
    vCpuStop := 5, aClk := 0xB2, vClkdiv := 3, aPwdn := 0x6F, vReset := 0x20 }

/-- An open idle transport right after `TXO`, with this environment. -/
def ready (oks : List Bool) (prefixes drains : List Nat) : State :=
  { State.reset with
    txOpen := true, hist := [.opened], result := .done
    env := { oks := oks, prefixes := prefixes, drains := drains, drawn := 0 } }

/-- The state an operation leaves; the state before where it leaves none. -/
def after (i : Instr) (s : State) : State :=
  match exec i s with
  | .next t => t
  | .fault _ => s
  | .refused _ => s

/-- The state a step leaves; the state before where it leaves none. -/
def stepped (s : State) : State :=
  match step s with
  | .next t => t
  | .fault _ => s
  | .refused _ => s

/-! ## WellFormed refuses -/

theorem test_wf_refuses_enct : ¬ (Instr.enct 0 (List.replicate streamBound 0)).WellFormed := by
  simp only [Instr.WellFormed, List.length_replicate, lt_irrefl, not_false_iff]

theorem test_wf_refuses_send : ¬ (Instr.send 0 (List.replicate streamBound 0)).WellFormed := by
  simp only [Instr.WellFormed, List.length_replicate, lt_irrefl, not_false_iff]

theorem test_wf_refuses_txw : ¬ (Instr.txw (List.replicate streamBound 0)).WellFormed := by
  simp only [Instr.WellFormed, List.length_replicate, lt_irrefl, not_false_iff]

/-! ## Words written out bit by bit: op(4) rsv(4) arg(24), 30_encoding.md R65 -/

theorem test_decode_encb :
    decodeBeats [.word 0b0001_0000_0000000000000000_01011010] = .instr (.encb 0x5A) [] := by decide

theorem test_decode_enct :
    decodeBeats [.word 0b0010_0000_000100100011010001010110, .word 2, .data 0xDE, .data 0xAD, .word 0x70000000] =
      .instr (.enct 0x123456 [0xDE, 0xAD]) [.word 0x70000000] := by decide

theorem test_decode_send :
    decodeBeats [.word 0b0011_0000_000000000000011000000010, .word 1, .data 0x05] =
      .instr (.send 0x000602 [0x05]) [] := by decide

theorem test_decode_txw :
    decodeBeats [.word 0b0100_0000_000000000000000000000000, .word 1, .data 0x11] = .instr (.txw [0x11]) [] := by decide

theorem test_decode_txf : decodeBeats [.word 0b0101_0000_000000000000000000000000] = .instr .txf [] := by decide
theorem test_decode_txo : decodeBeats [.word 0b0110_0000_000000000000000000000000] = .instr .txo [] := by decide
theorem test_decode_txc : decodeBeats [.word 0b0111_0000_000000000000000000000000] = .instr .txc [] := by decide

theorem test_decode_dly :
    decodeBeats [.word 0b1000_0000_000000000000000011111010] = .instr (.dly 250) [] := by decide

/-- X20, the highest reserved op, and the beats the rules give no command word (30_encoding.md R66, R67). -/
theorem test_decode_rejects :
    decodeBeats [.word 0xF0000000] = .illegal .opReserved 0xF0000000 [] ∧
    decodeBeats [.word 0x10000100] = .illegal .byteArgWide 0x10000100 [] ∧
    decodeBeats [.word 0x31000000, .word 1] = .illegal .rsvSet 0x31000000 [.word 1] ∧
    decodeBeats [.word 0x70000001] = .illegal .argSet 0x70000001 [] ∧
    decodeBeats [.data 7, .word 1] = .stray [.word 1] ∧
    decodeBeats [] = .awaiting ∧
    decodeBeats [.word 0x30000602, .word 2, .data 5] = .awaiting ∧
    decodeBeats [.word 0x30000602, .data 5] = .broken .dataWhereLengthDue ∧
    decodeBeats [.word 0x30000602, .word 2, .data 5, .word 0] = .broken .wordWhereDataDue := by decide

theorem test_table_words :
    decodeTableWord 32 0x100000FF = some (.encb 0xFF) ∧ decodeTableWord 32 0x20ABCDEF = some (.enct 0xABCDEF []) ∧
    decodeTableWord 32 0x30000602 = some (.send 0x000602 []) ∧ decodeTableWord 32 0x40000000 = some (.txw []) ∧
    decodeTableWord 32 0x50000000 = some .txf ∧ decodeTableWord 32 0x60000000 = some .txo ∧
    decodeTableWord 32 0x70000000 = some .txc ∧ decodeTableWord 32 0x80FFFFFF = some (.dly 0xFFFFFF) ∧
    decodeTableWord 32 0x00000000 = none ∧ tableBeats 32 0x31000000 = [.word 0x31000000] ∧
    tableBeats 64 0x0000000140000001 = [.word 0x40000001] ∧ decodeTableWord 72 0x050000000130000602 = some (.send 0x000602 [0x05]) := by
  decide

/-! ## The line code (95_test_vectors.md 2.1 to 2.3) -/

/-- I2 and the 256-entry table of 2.1 at corner inputs. -/
theorem test_encb_vectors :
    encByte candidate 0x00 = List.replicate 10 0xFE ∧
    encByte candidate 0xFF = [0xFE, 0x80, 0x80, 0x80, 0x80, 0x80, 0x80, 0x80, 0x80, 0xFE] ∧
    encByte candidate 0x5A = [0xFE, 0xFE, 0x80, 0xFE, 0x80, 0x80, 0xFE, 0x80, 0xFE, 0xFE] := by decide

/-- I1: `ENCT 0x000602, [0x05]`, 70 bytes. -/
theorem test_enct_vector_I1 :
    encTransaction candidate 0x000602 [0x05] =
      [0x80, 0xFE, 0x80, 0xFE, 0x80, 0x80, 0xFE, 0x80, 0xFE, 0xFE] ++
      [0xFE, 0xFE, 0xFE, 0xFE, 0xFE, 0xFE, 0xFE, 0xFE, 0xFE, 0xFE] ++
      [0xFE, 0xFE, 0xFE, 0xFE, 0xFE, 0xFE, 0x80, 0x80, 0xFE, 0xFE] ++
      [0xFE, 0xFE, 0xFE, 0xFE, 0xFE, 0xFE, 0xFE, 0x80, 0xFE, 0xFE] ++
      [0xFE, 0xFE, 0xFE, 0xFE, 0xFE, 0xFE, 0xFE, 0xFE, 0xFE, 0xFE] ++
      [0xFE, 0xFE, 0xFE, 0xFE, 0xFE, 0xFE, 0x80, 0xFE, 0x80, 0xFE] ++
      [0x80, 0x80, 0x80, 0x80, 0x80, 0x80, 0x80, 0x80, 0x80, 0xFE] := by decide

/-- T11: reading back, and the three spoiled frames. -/
theorem test_decode_frame_T11 :
    let f := encTransaction candidate 0x123456 [0xDE, 0xAD]
    decodeFrame candidate f = some (0x123456, [0xDE, 0xAD]) ∧
    decodeFrame candidate (f.set 0 0xFE) = none ∧
    decodeFrame candidate (f.set 70 0xFE) = none ∧
    decodeFrame candidate (f.set 33 0x00) = none := by decide +kernel

/-! ## Operations (95_test_vectors.md 3) -/

/-- X1. -/
theorem test_txo_X1 :
    let t := after .txo State.reset
    t.txOpen = true ∧ t.txErr = false ∧ t.txCalls = 0 ∧ t.hist = [.opened] ∧ statusByte t = 0x01 := by decide

/-- X2. -/
theorem test_txo_X2 :
    let t := after .txo (ready [] [] [])
    t.txOpen = true ∧ t.hist = [.opened] ∧ t.fault = { code := 5, call := 0, addr := 0 } ∧
    t.result = .raised .alreadyOpen := by decide

/-- X3. -/
theorem test_txw_X3 :
    let t := after (.txw [0x12, 0x34]) State.reset
    t.txCalls = 0 ∧ t.txLine = [] ∧ t.fault.code = 4 ∧ t.result = .raised .notOpen := by decide

/-- X4. -/
theorem test_txw_X4 :
    let t := after (.txw [0x12, 0x34]) (ready [true] [] [])
    t.txBuf = [0x12, 0x34] ∧ t.txLine = [] ∧ t.txCalls = 1 ∧ t.hist = [.opened, .write 1 [0x12, 0x34]] ∧
    statusByte t = 0x05 := by decide

/-- X5. -/
theorem test_txf_X5 :
    let t := after .txf { ready [true] [] [] with txBuf := [0x12, 0x34], txCalls := 1 }
    t.txLine = [0x12, 0x34] ∧ t.txBuf = [] ∧ t.txCalls = 1 ∧ t.hist = [.opened, .flush] ∧ statusByte t = 0x01 := by
  decide

/-- X14 without its encoder: a failing flush lets a prefix out. -/
theorem test_txf_fails :
    let t := after .txf { ready [false] [1] [] with txBuf := [0x12, 0x34], txCalls := 1 }
    t.txLine = [0x12] ∧ t.txBuf = [] ∧ t.txErr = true ∧ t.hist = [.opened, .failed 1 .flush] ∧
    t.fault = { code := 7, call := 1, addr := 0 } ∧ statusByte t = 0x03 := by decide

/-- X17. -/
theorem test_txc_X17 :
    let t := after .txc { ready [] [1] [] with txBuf := [0x12, 0x34] }
    t.txLine = [0x12] ∧ t.txBuf = [] ∧ t.txOpen = false ∧ t.hist = [.opened, .closed] := by decide

/-- X12: a failed session is released and its error kept. -/
theorem test_txc_X12 :
    let t := after .txc { ready [] [0] [] with txErr := true, txCalls := 2 }
    t.txOpen = false ∧ t.txErr = true ∧ t.txCalls = 2 ∧ statusByte t = 0x02 := by decide

/-- X18. -/
theorem test_dly_X18 :
    let t := after (.dly 250) State.reset
    t.hist = [.wait 250] ∧ t.fault = State.reset.fault ∧ t.txOpen = false := by decide

/-- X16: the operand fault comes before the closed transport. -/
theorem test_send_X16 :
    let t := after (.send 0x000001 []) State.reset
    t.result = .raised .emptyPayload ∧ t.fault = { code := 2, call := 0, addr := 1 } ∧ t.res = [] := by decide

/-- X19: the encoder works in a failed session. -/
theorem test_encb_X19 :
    let t := after (.encb 0xFF) { ready [] [] [] with txErr := true }
    t.res = encByte Config.line 0xFF ∧ t.result = .done ∧ t.txErr = true := ⟨rfl, rfl, rfl⟩

/-- T9: an empty payload leaves `RES`. -/
theorem test_enct_T9 :
    let t := after (.enct 0xFFFFFF []) { State.reset with res := [0x77] }
    t.res = [0x77] ∧ t.fault.code = 2 ∧ t.result = .raised .emptyPayload := by decide

theorem payloadFault_one (b : Byte) : payloadFault [b] = none :=
  payloadFault_eq_none.mpr ⟨by simp, by
    have := Config.maxPayload_ge
    simp only [List.length_singleton]
    omega⟩

/-- X8: one `SEND`, all draws ok. -/
theorem test_send_X8 :
    let t := after (.send 0x000602 [0x05]) (ready [true, true] [] [])
    t.txLine = encTransaction Config.line 0x000602 [0x05] ∧ t.txBuf = [] ∧ t.txCalls = 1 ∧
    t.res = encTransaction Config.line 0x000602 [0x05] ∧
    t.hist = [.opened, .write 1 (encTransaction Config.line 0x000602 [0x05]), .flush] := by
  have h : after (.send 0x000602 [0x05]) (ready [true, true] [] []) =
      sendFrame 0x000602 [0x05] ((ready [true, true] [] []).latch 0x3#4 0x000602 [0x05]) := rfl
  rw [h, sendFrame, encodeFrame, payloadFault_one]
  exact ⟨rfl, rfl, rfl, rfl, rfl⟩

/-- X11: a dead session refuses `SEND`, with `RES` already written. -/
theorem test_send_X11 :
    let t := after (.send 0x000003 [0x33]) { ready [] [] [] with txErr := true, txCalls := 2 }
    t.result = .raised .sessionFailed ∧ t.fault = { code := 6, call := 2, addr := 3 } ∧ t.txCalls = 2 ∧
    t.res = encTransaction Config.line 0x000003 [0x33] ∧ t.txLine = [] := by
  have h : after (.send 0x000003 [0x33]) { ready [] [] [] with txErr := true, txCalls := 2 } =
      sendFrame 0x000003 [0x33]
        (State.latch { ready [] [] [] with txErr := true, txCalls := 2 } 0x3#4 0x000003 [0x33]) := rfl
  rw [h, sendFrame, encodeFrame, payloadFault_one]
  exact ⟨rfl, rfl, rfl, rfl, rfl⟩

/-- A step from reset runs the presented operation; an illegal word is refused and taken (U11). -/
theorem test_step_from_reset :
    (stepped (State.reset.withFetchWord 32 0x60000000)).txOpen = true ∧
    (stepped (State.reset.withFetchWord 32 0x60000000)).port = [] ∧
    (stepped (State.reset.withFetchWord 32 0x90000000)).fault = { code := 1, call := 0, addr := 0 } ∧
    stepped State.reset = State.reset := by decide

/-- R96: an idle step drains what the environment says. -/
theorem test_idle_drains :
    let t := stepped { ready [] [] [1] with txBuf := [0x12, 0x34] }
    t.txLine = [0x12] ∧ t.txBuf = [0x34] ∧ t.hist = [.opened] := by decide

/-! ## The command layer and the programmer (95_test_vectors.md 4) -/

/-- M1 to M5. -/
theorem test_magic :
    magicOk [] = false ∧ magicOk (List.replicate 10 0) = false ∧
    magicOk [0, 0, 0, 0, 0, 0, 0, 0, 0x54, 0x4C, 0x4E] = false ∧
    magicOk [0, 0, 0, 0, 0, 0, 0, 0, 0x54, 0x4C, 0x4E, 0x4B] = true ∧
    magicOk [0x54, 0x4C, 0x4E, 0x4B, 0, 0, 0, 0, 0, 0, 0, 0] = false := by decide

/-- P5: the write calls of a 10-byte image with one halt turn, and P6 with two for the empty image. -/
theorem test_program_calls :
    callCount (actionOps (programActions constants 0 1 0 (List.replicate 10 0x11))) = 29 ∧
    callCount (actionOps (programActions constants 0 2 0 [])) = 9 := by decide +kernel

/-- P5: the step and offset in progress at the first halt write, the erase, the burst and the reset (operations 0, 22, 29 and 33
of the listing, its waits counted). -/
theorem test_program_steps :
    let ops := labelledOps (programActions constants 0 1 0 (List.replicate 10 0x11)) newProgSession
    ops[0]? = some { step := .halting, offset := none, op := .send 0x6F [0x20] } ∧
    ops[22]? = some { step := .erasing, offset := some 0, op := .send 0x0C [0x20, 0x00, 0x00, 0x00] } ∧
    ops[29]? = some { step := .programming, offset := some 0,
                      op := .send 0x0C ([0x02, 0x00, 0x00, 0x00] ++ List.replicate 10 0x11) } ∧
    ops[33]? = some { step := .resetting, offset := none, op := .send 0x6F [0x20] } ∧ ops[34]? = none := by
  decide +kernel

/-! ## States and operands that meet the hypotheses of the statements -/

theorem test_meets_DecodeEncodeRoundTrip :
    (Instr.enct 0xFFFFFF [0x05]).WellFormed ∧ (Instr.send 0 []).WellFormed ∧ (Instr.txw [0x01]).WellFormed := by
  decide

theorem test_meets_DecodedBeatsAreCanonical :
    decodeBeats [.word 0x40000000, .word 1, .data 0x11, .word 5] = .instr (.txw [0x11]) [.word 5] := by decide

theorem test_meets_IllegalWordOnlyRecordsItsFault :
    IllegalWord 0x00000000 ∧ IllegalWord 0x90000000 ∧ IllegalWord 0x31000000 ∧ IllegalWord 0x10000100 ∧
    IllegalWord 0x50000001 ∧
    ({ State.reset with port := [.word 0x90000000] } : State).port = Beat.word 0x90000000 :: [] := by
  unfold IllegalWord
  decide

theorem test_meets_StepRunsTheDecodedOperation :
    decodeBeats ({ ready [] [] [] with port := [.word 0x50000000] } : State).port = .instr .txf [] := by decide

theorem test_meets_PresentedOperationRuns :
    (Instr.txw [0x11]).WellFormed ∧
    ({ State.reset with port := [.word 0x40000000, .word 1, .data 0x11, .data 9] } : State).port =
      encode (.txw [0x11]) ++ [.data 9] := by decide

theorem test_meets_OperationWaitsForItsLastBeat :
    (Instr.txw [0x11]).WellFormed ∧
    encode (.txw [0x11]) =
      ({ State.reset with port := [.word 0x40000000, .word 1] } : State).port ++ [Beat.data 0x11] ∧
    encode .txf = State.reset.port ++ encode .txf ∧ [Beat.data 0x11] ≠ [] := by decide

theorem test_meets_line_code_statements :
    candidate.Valid ∧ ([0x05] : List Byte) ≠ [] ∧ ([0x05] : List Byte)[0]? = some 0x05 ∧
    encByte candidate 0x05 = encByte candidate 0x05 := by decide

/-- The operand ranges of `ENCT` and `SEND`: 0, 1, `MAX_PAYLOAD` and one more. -/
theorem test_meets_EnctWritesResOrRefuses :
    ([] : List Byte) = [] ∧
    Config.maxPayload < (List.replicate (Config.maxPayload + 1) (0x00 : Byte)).length ∧
    (1 ≤ ([0x05] : List Byte).length ∧ ([0x05] : List Byte).length ≤ Config.maxPayload) ∧
    1 ≤ (List.replicate Config.maxPayload (0x00 : Byte)).length ∧
    (List.replicate Config.maxPayload (0x00 : Byte)).length ≤ Config.maxPayload := by
  have := Config.maxPayload_ge
  refine ⟨rfl, ?_, ⟨by simp, ?_⟩, ?_, ?_⟩ <;> simp only [List.length_replicate, List.length_singleton] <;> omega

theorem test_meets_transport_states :
    State.reset.txOpen = false ∧ (ready [] [] []).txOpen = true ∧
    ({ ready [] [] [] with txErr := true } : State).txErr = true ∧
    (ready [true, true] [] []).txErr = false ∧ (ready [true, true] [] []).env.okNow = true ∧
    (ready [true, true] [] []).env.afterOk.okNow = true ∧ (ready [false] [3] []).env.okNow = false ∧
    (ready [true, false] [3] []).env.okNow = true ∧ (ready [true, false] [3] []).env.afterOk.okNow = false := by
  decide

theorem test_meets_RefusalsKeepTheTransport :
    ∃ t, exec .txf State.reset = .next t ∧ t.result = .raised .notOpen ∧ FaultName.notOpen ≠ .transportError :=
  ⟨_, rfl, rfl, by decide⟩

theorem test_meets_FaultWrittenExactlyWhenRaised :
    ∃ t, exec .txo (ready [] [] []) = .next t ∧ t.result = .raised .alreadyOpen := ⟨_, rfl, rfl⟩

theorem test_meets_EncodersReadNoState :
    ∃ t t', exec (.encb 0x5A) State.reset = .next t ∧ exec (.encb 0x5A) (ready [] [] []) = .next t' ∧
      t.result = .done := ⟨_, _, rfl, rfl, rfl⟩

theorem test_meets_FlushIsTheBarrier :
    ∃ t, exec .txf { ready [true] [] [] with txBuf := [0x12] } = .next t ∧ t.result = .done := ⟨_, rfl, rfl⟩

theorem test_meets_FlushIsTheBarrier_send :
    ∃ t, exec (.send 0x000602 [0x05]) (ready [true, true] [] []) = .next t ∧ t.result = .done := by
  refine ⟨_, rfl, ?_⟩
  rw [sendFrame, encodeFrame, payloadFault_one]
  rfl

theorem test_meets_EveryEnvironmentChoiceIsAdmitted :
    (ready [] [] []).txOpen = true ∧ (ready [] [] []).txErr = false ∧
    [0x12] <+: ({ ready [] [] [] with txBuf := [0x12, 0x34] } : State).txBuf ∧
    [0x12, 0x34, 0x56] <+: ({ ready [] [] [] with txBuf := [0x12, 0x34] } : State).txBuf ++ [0x56] := by decide

theorem test_meets_EveryEnvironmentChoiceIsAdmitted_presented :
    let s : State := { ready [] [] [] with txBuf := [0x12, 0x34], port := [.word 0x50000000] }
    s.txOpen = true ∧ s.txErr = false ∧ s.txBuf = [0x12] ++ [0x34] ∧ decodeBeats s.port = .instr .txf [] := by decide

theorem test_meets_EveryEnvironmentChoiceIsAdmitted_send :
    1 ≤ ([0x05] : List Byte).length ∧ ([0x05] : List Byte).length ≤ Config.maxPayload ∧
    [0x12] <+: ({ ready [] [] [] with txBuf := [0x12, 0x34] } : State).txBuf ++
      encTransaction Config.line 0x000602 [0x05] := by
  have := Config.maxPayload_ge
  exact ⟨by simp, by simp only [List.length_singleton]; omega, ⟨_, rfl⟩⟩

theorem test_meets_IdleStepOnlyDrains :
    ({ ready [] [] [1] with txBuf := [0x12] } : State).port = [] ∧ (ready [] [] []).txOpen = true := by decide

theorem test_meets_StepKeepsTheInvariant :
    TransportInv (ready [] [] []) ∧ ∃ t, step (ready [] [] []) = .next t := by
  refine ⟨?_, _, rfl⟩
  constructor <;> simp [ready, State.reset, sessionView, SessionView.after, callsNumbered, sessionBytes, bytesAfter]

/-- A session with one accepted write, for the statements over runs. -/
theorem test_meets_runs :
    ∃ t : State, Sys2Proof.core.run 1 { ready [true] [] [] with port := encode (.txw [0x12]) } = .next t ∧
      t.hist = [.opened] ++ [.write 1 [0x12]] ∧ isFail (.write 1 [0x12]) = false := ⟨_, rfl, rfl, rfl⟩

/-- A failed session whose host goes on writing. -/
def deadSession : State :=
  { ready [] [] [] with txErr := true, txCalls := 1, hist := [.opened, .failed 1 .write], port := encode (.txw [0x12]) }

theorem test_meets_FailedSessionSendsNothing :
    TransportInv deadSession ∧ deadSession.txErr = true ∧
    ∃ t : State, Sys2Proof.core.run 1 deadSession = .next t ∧ t.hist = deadSession.hist ++ [] ∧
      Event.opened ∉ ([] : List Event) := by
  refine ⟨?_, rfl, _, rfl, rfl, by simp⟩
  constructor <;> simp [deadSession, ready, State.reset, sessionView, SessionView.after, callsNumbered]

theorem test_meets_ready : ReadyTransport (ready [true, true] [] []) := ⟨rfl, rfl, rfl⟩

theorem layerOp_one (a : Addr) (b : Byte) : LayerOp (.send a [b]) := payloadFault_eq_none.mp (payloadFault_one b)

theorem test_meets_FaultFreeOperationsReachTheLine :
    (∀ i ∈ [Instr.send 0x0D [0x00], .dly 3], LayerOp i) ∧ ReadyTransport (ready [true, true] [] []) ∧
    (ready [true, true] [] []).env.oks =
      List.replicate (2 * callCount [Instr.send 0x0D [0x00], .dly 3]) true ++ [] := by
  refine ⟨?_, test_meets_ready, rfl⟩
  intro i hi
  simp only [List.mem_cons, List.not_mem_nil, or_false] at hi
  rcases hi with rfl | rfl
  · exact layerOp_one _ _
  · trivial

theorem test_meets_FailingWriteCutsTheLine :
    (∀ i ∈ [Instr.send 0x0D [0x00]], LayerOp i) ∧ LayerOp (.send 0x0C [0x06]) ∧
    (ready [true, true, false] [13] []).env.oks =
      List.replicate (2 * callCount [Instr.send 0x0D [0x00]]) true ++ false :: [] := by
  refine ⟨?_, layerOp_one _ _, rfl⟩
  intro i hi
  simp only [List.mem_singleton] at hi
  rw [hi]
  exact layerOp_one _ _

theorem test_meets_LayerFramesAreFlushedAndMarked :
    (∀ i ∈ [Instr.dly 3], LayerOp i) ∧ FlushAfterEveryFrame State.reset.hist ∧ FramesMarked State.reset.hist ∧
    ∃ t, issueAll [.dly 3] State.reset = .next t := by
  refine ⟨?_, ?_, ?_, issueAll_next _ _⟩
  · intro i hi
    simp only [List.mem_singleton] at hi
    rw [hi]
    trivial
  · intro pre k bytes post h
    simp [State.reset] at h
  · intro k bytes h
    simp [State.reset] at h

/-- The image of M4, 12 bytes with the signature. -/
def image : List Byte := [0, 0, 0, 0, 0, 0, 0, 0, 0x54, 0x4C, 0x4E, 0x4B]

theorem test_meets_GateRejectsUntouched :
    (2 ^ 24 < (List.replicate (2 ^ 24 + 1) (0 : Byte)).length) ∧ ([] : List Byte).length ≤ 2 ^ 24 ∧
    magicOk [] = false ∧ image.length ≤ 2 ^ 24 ∧ magicOk image = true := by
  refine ⟨by simp only [List.length_replicate]; omega, by decide, by decide, by decide, by decide⟩

/-- The hypotheses of the statements about runs of a program and a session: a ready (or closed) transport and as many successes
as the program of `image` needs with one halt turn. -/
theorem test_meets_fault_free_program :
    ReadyTransport (ready (List.replicate (2 * 29) true) [] []) ∧
    (ready (List.replicate (2 * 29) true) [] []).env.oks =
      List.replicate (2 * callCount (actionOps (programActions constants 0 1 0 image))) true ++ [] ∧
    ∃ e, runProgram constants 0 1 0 image (ready (List.replicate (2 * 29) true) [] []) = .next e :=
  ⟨⟨rfl, rfl, rfl⟩, by decide +kernel, runActions_next _ _ _⟩

/-- The constants of the statements about frames that stand alone. -/
theorem test_meets_WritesDistinct : WritesDistinct constants := by
  unfold WritesDistinct
  decide

/-- The state after reset with an environment whose first answer is a failure. -/
def firstFails : State :=
  { State.reset with env := { oks := [false], prefixes := [0], drains := [], drawn := 0 } }

/-- A session whose first write fails ends in a `TransportError` at its step, with nothing left at the port; and a session can
find the transport held. -/
theorem test_meets_SessionReleasesOnEveryPath :
    firstFails.txOpen = false ∧ firstFails.port = [] ∧ (ready [] [] []).txOpen = true ∧
    ∃ e record, flashSession constants 0 0 0 image firstFails = .next e ∧
      e.answer = .err (.transportError .clockConfigured none record) := by
  refine ⟨rfl, rfl, rfl, ?_⟩
  have hm : magicOk image = true := by decide
  have hl : ¬ Config.maxImage < image.length := by decide
  obtain ⟨t, ht, hr, hf, ho⟩ : ∃ t, hostIssue (.send 0xB2 [3]) (after .txo firstFails) = .next t ∧
      t.result = .raised .transportError ∧ t.txErr = true ∧ t.txOpen = true := by
    refine ⟨_, rfl, ?_⟩
    rw [sendFrame, encodeFrame, payloadFault_one]
    exact ⟨rfl, rfl, rfl⟩
  let fp : ProgSession := { state := .clockConfigured, cursor := 0, lastErased := none, t0 := some 0 }
  have hp : runProgram constants 0 0 0 image (after .txo firstFails) = .next (abortRun fp t) := runActions_raised ht hr
  refine ⟨{ abortRun fp t with state := after .txc t.drainMoment }, t.fault, ?_, rfl⟩
  show (match flash constants 0 0 0 image (after .txo firstFails) with
    | .next e => releaseAfter e
    | .fault r => .fault r
    | .refused r => .refused r) = _
  rw [flash, if_neg hl, if_neg (by simp [hm]), hp]
  rfl

theorem test_meets_FaultFreeSessionEndsWell :
    State.reset.txOpen = false ∧ State.reset.port = [] ∧ (∀ e ∈ State.reset.hist, isFail e = false) ∧
    image.length ≤ 2 ^ 24 ∧ magicOk image = true ∧
    ({ State.reset with
        env := { oks := List.replicate (2 * 29) true, prefixes := [], drains := [], drawn := 0 } } : State).env.oks =
      List.replicate (2 * callCount (actionOps (programActions constants 0 1 0 image))) true ++ [] :=
  ⟨rfl, rfl, by simp [State.reset], by decide, by decide, by decide +kernel⟩

end Sys2Proof.Tests
end

section
/-! SUPPORT. How an operation ends (60_exceptions.md R158): one relation between the state in which its operands are latched
and the state it leaves, shown of each operation and closed under `andThen`. -/

namespace Sys2Proof

/-- The bytes an operation takes from the port as its operand stream (30_encoding.md R66). -/
def Instr.operands : Instr → List Byte
  | .encb _ => []
  | .enct _ payload => payload
  | .send _ payload => payload
  | .txw bytes => bytes
  | .txf => []
  | .txo => []
  | .txc => []
  | .dly _ => []

theorem operandBeats_ne_nil (bytes : List Byte) : operandBeats bytes ≠ [] := List.cons_ne_nil _ _

theorem operandBeats_injective : Function.Injective operandBeats := by
  intro l m h
  have hmap : l.map Beat.data = m.map Beat.data := (List.cons.inj h).2
  exact List.map_injective_iff.mpr (fun _ _ hb => Beat.data.inj hb) hmap

/-- An operation's beats after its command word are none, or the stream of its operand bytes. -/
theorem Instr.stream_cases (i : Instr) :
    (i.stream = [] ∧ i.operands = []) ∨ i.stream = operandBeats i.operands := by
  cases i with
  | enct _ _ => exact .inr rfl
  | send _ _ => exact .inr rfl
  | txw _ => exact .inr rfl
  | encb _ => exact .inl ⟨rfl, rfl⟩
  | txf => exact .inl ⟨rfl, rfl⟩
  | txo => exact .inl ⟨rfl, rfl⟩
  | txc => exact .inl ⟨rfl, rfl⟩
  | dly _ => exact .inl ⟨rfl, rfl⟩

theorem Instr.operands_of_stream_nil {i : Instr} (h : i.stream = []) : i.operands = [] := by
  rcases i.stream_cases with ⟨-, ho⟩ | hs
  · exact ho
  · exact absurd (hs.symm.trans h) (operandBeats_ne_nil _)

theorem Instr.operands_of_stream {i : Instr} {bytes : List Byte} (h : i.stream = operandBeats bytes) :
    i.operands = bytes := by
  rcases i.stream_cases with ⟨hs, -⟩ | hs
  · exact absurd (h.symm.trans hs) (operandBeats_ne_nil _)
  · exact operandBeats_injective (hs.symm.trans h)

end Sys2Proof

namespace Sys2Proof.Machine

/-- What an operation does once its operands are in `OPR`. -/
def effect : Instr → State → State
  | .encb b => encodeByte b
  | .enct addr payload => encodeFrame addr payload
  | .send addr payload => sendFrame addr payload
  | .txw bytes => writeBytes bytes
  | .txf => flushBytes
  | .txo => openTransport
  | .txc => closeTransport
  | .dly ms => recordWait ms

/-- Every operation latches its operands and then has its effect (10_state.md R13). -/
theorem exec_eq_effect (i : Instr) (s : State) :
    exec i s = .next (effect i (s.latch i.opCode i.argField i.operands)) := by
  cases i <;> rfl

theorem eq_effect_of_exec {i : Instr} {s t : State} (h : exec i s = .next t) :
    t = effect i (s.latch i.opCode i.argField i.operands) := by
  rw [exec_eq_effect] at h
  exact (Host.Outcome.next.inj h).symm

/-- An operation that began in `s` has ended in `t`: `OPR` and the port are kept, and either it is done with `FAULT` kept, or it
raised a fault and `FAULT` is that fault's record (10_state.md R13, R21, 60_exceptions.md R158). -/
structure OperationEnd (s t : State) : Prop where
  opr : t.opr = s.opr
  port : t.port = s.port
  report : (t.result = .done ∧ t.fault = s.fault) ∨
    ∃ f, t.result = .raised f ∧ t.fault = { code := faultCode f, call := t.txCalls, addr := s.opr.arg }

namespace OperationEnd

variable {s u : State}

theorem finish (hopr : u.opr = s.opr) (hport : u.port = s.port) (hfault : u.fault = s.fault) :
    OperationEnd s u.finish :=
  ⟨hopr, hport, .inl ⟨rfl, hfault⟩⟩

theorem raise (hopr : u.opr = s.opr) (hport : u.port = s.port) {f : FaultName} : OperationEnd s (u.raise f) :=
  ⟨hopr, hport, .inr ⟨f, rfl, by simp [hopr]⟩⟩

theorem fail {kind : FailKind} {pending : List Byte} (hopr : u.opr = s.opr) (hport : u.port = s.port) :
    OperationEnd s (u.fail kind pending) :=
  ⟨hopr, hport, .inr ⟨.transportError, rfl, by simp [hopr]⟩⟩

/-- The first fault ends a composite; without one, the next part decides (41_transport.md R95). -/
theorem andThen {next : State → State} (h : OperationEnd s u) (hnext : ∀ v, OperationEnd v (next v)) :
    OperationEnd s (u.andThen next) := by
  obtain ⟨hopr, hport, ⟨hdone, hfault⟩ | ⟨f, hraised, hfault⟩⟩ := h
  · rw [andThen_done next hdone]
    obtain ⟨hopr', hport', hreport'⟩ := hnext u
    rw [hopr, hfault] at hreport'
    exact ⟨hopr'.trans hopr, hport'.trans hport, hreport'⟩
  · rw [andThen_raised next hraised]
    exact ⟨hopr, hport, .inr ⟨f, hraised, hfault⟩⟩

end OperationEnd

theorem writeBytes_ends (bytes : List Byte) (s : State) : OperationEnd s (writeBytes bytes s) := by
  rcases writeBytes_cases bytes s with ⟨-, h⟩ | ⟨-, -, h⟩ | ⟨-, -, -, h⟩ | ⟨-, -, -, h⟩ <;> rw [h]
  · exact .raise rfl rfl
  · exact .raise rfl rfl
  · exact .finish rfl rfl rfl
  · exact .fail rfl rfl

theorem flushBytes_ends (s : State) : OperationEnd s (flushBytes s) := by
  rcases flushBytes_cases s with ⟨-, h⟩ | ⟨-, -, h⟩ | ⟨-, -, -, h⟩ | ⟨-, -, -, h⟩ <;> rw [h]
  · exact .raise rfl rfl
  · exact .raise rfl rfl
  · exact .finish rfl rfl rfl
  · exact .fail rfl rfl

theorem openTransport_ends (s : State) : OperationEnd s (openTransport s) := by
  rcases openTransport_cases s with ⟨-, h⟩ | ⟨-, h⟩ <;> rw [h]
  · exact .raise rfl rfl
  · exact .finish rfl rfl rfl

theorem closeTransport_ends (s : State) : OperationEnd s (closeTransport s) := by
  rcases closeTransport_cases s with ⟨-, h⟩ | ⟨-, h⟩ <;> rw [h]
  · exact .raise rfl rfl
  · exact .finish rfl rfl rfl

theorem encodeFrame_ends (addr : Addr) (payload : List Byte) (s : State) :
    OperationEnd s (encodeFrame addr payload s) := by
  rcases encodeFrame_cases addr payload s with ⟨f, -, h⟩ | ⟨-, h⟩ <;> rw [h]
  · exact .raise rfl rfl
  · exact .finish rfl rfl rfl

theorem sendFrame_ends (addr : Addr) (payload : List Byte) (s : State) :
    OperationEnd s (sendFrame addr payload s) :=
  ((encodeFrame_ends addr payload s).andThen (writeBytes_ends _)).andThen flushBytes_ends

/-- Every operation ends, done or with its fault recorded. -/
theorem effect_ends (i : Instr) (s : State) : OperationEnd s (effect i s) := by
  cases i with
  | encb b => exact .finish rfl rfl rfl
  | enct addr payload => exact encodeFrame_ends addr payload s
  | send addr payload => exact sendFrame_ends addr payload s
  | txw bytes => exact writeBytes_ends bytes s
  | txf => exact flushBytes_ends s
  | txo => exact openTransport_ends s
  | txc => exact closeTransport_ends s
  | dly ms => exact .finish rfl rfl rfl

theorem exec_ends {i : Instr} {s t : State} (h : exec i s = .next t) :
    OperationEnd (s.latch i.opCode i.argField i.operands) t :=
  eq_effect_of_exec h ▸ effect_ends i _

/-- Settles O29, from how every operation ends. -/
theorem faultWrittenExactlyWhenRaised : Obligations.FaultWrittenExactlyWhenRaised :=
  fun _ _ _ h => (exec_ends h).report

/-- Settles O30: the operation begins with its operands latched and ends with `OPR` and the port kept. -/
theorem operandsAreLatched : Obligations.OperandsAreLatched := by
  intro i s t h
  obtain ⟨hopr, hport, -⟩ := exec_ends h
  rw [latch_opr] at hopr
  refine ⟨hport, by rw [hopr], by rw [hopr], fun hs => ?_, fun bytes hs => ?_⟩
  · simp [hopr, Instr.operands_of_stream_nil hs]
  · simp [hopr, Instr.operands_of_stream hs]

end Sys2Proof.Machine
end

section
/-! SUPPORT. The moves of the transport (41_transport.md R91 to R99): every step of the machine is a sequence of them, so a
property of runs is shown once for each move. -/

namespace Sys2Proof.Safety

open Sys2Proof.Machine

section Kept

variable (s : State)

theorem latch_kept (op : BitVec 4) (arg : Addr) (data : List Byte) : TransportKept s (s.latch op arg data) :=
  ⟨rfl, rfl, rfl, rfl, rfl, rfl⟩

theorem finish_kept : TransportKept s s.finish := ⟨rfl, rfl, rfl, rfl, rfl, rfl⟩

theorem raise_kept (f : FaultName) : TransportKept s (s.raise f) := ⟨rfl, rfl, rfl, rfl, rfl, rfl⟩

theorem setRes_kept (bytes : List Byte) : TransportKept s (s.setRes bytes) := ⟨rfl, rfl, rfl, rfl, rfl, rfl⟩

theorem setPort_kept (rest : List Beat) : TransportKept s (s.setPort rest) := ⟨rfl, rfl, rfl, rfl, rfl, rfl⟩

theorem passBeat_kept (rest : List Beat) : TransportKept s (s.passBeat rest) := ⟨rfl, rfl, rfl, rfl, rfl, rfl⟩

theorem takeIllegal_kept (w : Word32) (rest : List Beat) : TransportKept s (s.takeIllegal w rest) :=
  ⟨rfl, rfl, rfl, rfl, rfl, rfl⟩

end Kept

/-- One move of the transport, with the guards under which the block makes it. -/
inductive TransportMove : State → State → Prop
  | kept {s t : State} (h : TransportKept s t) : TransportMove s t
  | drain (s : State) : TransportMove s s.drainMoment
  | accept {s : State} (bytes : List Byte) (hopen : s.txOpen = true) (hok : s.txErr = false) :
      TransportMove s (s.countCall.spendOk.accept bytes)
  | failWrite {s : State} (bytes : List Byte) (hopen : s.txOpen = true) (hok : s.txErr = false) :
      TransportMove s (s.countCall.spendOk.fail .write (s.txBuf ++ bytes))
  | flush {s : State} (hopen : s.txOpen = true) (hok : s.txErr = false) : TransportMove s s.spendOk.drainAll
  | failFlush {s : State} (hopen : s.txOpen = true) (hok : s.txErr = false) :
      TransportMove s (s.spendOk.fail .flush s.txBuf)
  | acquire {s : State} (hclosed : s.txOpen = false) : TransportMove s s.beginSession
  | release {s : State} (hopen : s.txOpen = true) : TransportMove s s.release
  | wait (s : State) (ms : Nat) : TransportMove s (s.logWait ms)

/-- A sequence of moves of the transport. -/
def TransportMoves : State → State → Prop := Relation.ReflTransGen TransportMove

namespace TransportMoves

variable {s t u : State}

theorem refl (s : State) : TransportMoves s s := Relation.ReflTransGen.refl

theorem trans (h : TransportMoves s t) (h' : TransportMoves t u) : TransportMoves s u :=
  Relation.ReflTransGen.trans h h'

theorem one (h : TransportMove s t) : TransportMoves s t := Relation.ReflTransGen.single h

theorem ofKept (h : TransportKept s t) : TransportMoves s t := one (.kept h)

/-- A move, then the end of the operation. -/
theorem finish (h : TransportMove s t) : TransportMoves s t.finish := (one h).trans (ofKept (finish_kept t))

/-- A composite moves the transport by its first part, or by both. -/
theorem andThen {next : State → State} (h : TransportMoves s t) (hnext : ∀ v, TransportMoves v (next v)) :
    TransportMoves s (t.andThen next) := by
  unfold State.andThen
  split
  · exact h.trans (hnext t)
  · exact h
  · exact h

end TransportMoves

open TransportMoves (ofKept one)

theorem writeBytes_moves (bytes : List Byte) (s : State) : TransportMoves s (writeBytes bytes s) := by
  rcases writeBytes_cases bytes s with ⟨-, h⟩ | ⟨-, -, h⟩ | ⟨ho, he, -, h⟩ | ⟨ho, he, -, h⟩ <;> rw [h]
  · exact ofKept (raise_kept s _)
  · exact ofKept (raise_kept s _)
  · exact .finish (.accept bytes ho he)
  · exact one (.failWrite bytes ho he)

theorem flushBytes_moves (s : State) : TransportMoves s (flushBytes s) := by
  rcases flushBytes_cases s with ⟨-, h⟩ | ⟨-, -, h⟩ | ⟨ho, he, -, h⟩ | ⟨ho, he, -, h⟩ <;> rw [h]
  · exact ofKept (raise_kept s _)
  · exact ofKept (raise_kept s _)
  · exact .finish (.flush ho he)
  · exact one (.failFlush ho he)

theorem openTransport_moves (s : State) : TransportMoves s (openTransport s) := by
  rcases openTransport_cases s with ⟨-, h⟩ | ⟨ho, h⟩ <;> rw [h]
  · exact ofKept (raise_kept s _)
  · exact .finish (.acquire ho)

theorem closeTransport_moves (s : State) : TransportMoves s (closeTransport s) := by
  rcases closeTransport_cases s with ⟨-, h⟩ | ⟨ho, h⟩ <;> rw [h]
  · exact ofKept (raise_kept s _)
  · exact .finish (.release ho)

theorem encodeFrame_moves (addr : Addr) (payload : List Byte) (s : State) :
    TransportMoves s (encodeFrame addr payload s) := by
  rcases encodeFrame_cases addr payload s with ⟨f, -, h⟩ | ⟨-, h⟩ <;> rw [h]
  · exact ofKept (raise_kept s f)
  · exact .finish (.kept (setRes_kept s _))

theorem sendFrame_moves (addr : Addr) (payload : List Byte) (s : State) :
    TransportMoves s (sendFrame addr payload s) :=
  ((encodeFrame_moves addr payload s).andThen (writeBytes_moves _)).andThen flushBytes_moves

theorem effect_moves (i : Instr) (s : State) : TransportMoves s (effect i s) := by
  cases i with
  | encb b => exact .finish (.kept (setRes_kept s _))
  | enct addr payload => exact encodeFrame_moves addr payload s
  | send addr payload => exact sendFrame_moves addr payload s
  | txw bytes => exact writeBytes_moves bytes s
  | txf => exact flushBytes_moves s
  | txo => exact openTransport_moves s
  | txc => exact closeTransport_moves s
  | dly ms => exact .finish (.wait s _)

theorem exec_moves {i : Instr} {s t : State} (h : exec i s = .next t) : TransportMoves s t :=
  eq_effect_of_exec h ▸ (ofKept (latch_kept s _ _ _)).trans (effect_moves i _)

/-- Every step is a drain moment and then the moves of what stands at the port (41_transport.md R90, R96). -/
theorem step_moves {s t : State} (h : step s = .next t) : TransportMoves s t := by
  refine (one (.drain s)).trans ?_
  rcases step_cases h with ⟨i, rest, -, hexec⟩ | ⟨-, w, rest, -, rfl⟩ | ⟨rest, -, rfl⟩ | ⟨-, rfl⟩
  · exact (ofKept (setPort_kept _ rest)).trans (exec_moves hexec)
  · exact ofKept (takeIllegal_kept _ w rest)
  · exact ofKept (passBeat_kept _ rest)
  · exact .refl _

theorem run_moves (k : Nat) (s t : State) (h : Sys2Proof.core.run k s = .next t) : TransportMoves s t :=
  run_induct TransportMoves .refl (fun _ _ _ => .trans) (fun _ _ => step_moves) k s t h

end Sys2Proof.Safety
end

section
/-! SUPPORT. The invariant of the transport (10_state.md R23) is kept by every move. -/

namespace Sys2Proof.Safety

open Sys2Proof.Machine

/-- A history is numbered with one more event exactly when it was and the event's number follows its calls. -/
theorem callsNumbered_snoc (h : List Event) (e : Event) :
    callsNumbered { opened := false, failed := false, calls := 0 } (h ++ [e]) ↔
      callsNumbered { opened := false, failed := false, calls := 0 } h ∧ callsNumbered (sessionView h) [e] :=
  callsNumbered_append _ h [e]

/-- A drain moment keeps the invariant: it acts only in an open session without failure, and loses nothing. -/
theorem TransportInv.drainMoment {s : State} (h : TransportInv s) : TransportInv s.drainMoment where
  closed_buf ho := by
    rw [drainMoment_txOpen] at ho
    rw [drainMoment_of_closed ho]
    exact h.closed_buf ho
  failed_buf he := by
    rw [drainMoment_txErr] at he
    rw [drainMoment_of_failed he]
    exact h.failed_buf he
  view := by simpa using h.view
  numbered := by simpa using h.numbered
  written := by simpa using h.written

/-- A move that records one event keeps the invariant when the event says of the transport what the move does to it. -/
theorem TransportInv.record {s t : State} {e : Event} (h : TransportInv s) (hist : t.hist = s.hist ++ [e])
    (view : SessionView.after { opened := s.txOpen, failed := s.txErr, calls := s.txCalls } e =
      { opened := t.txOpen, failed := t.txErr, calls := t.txCalls })
    (numbered : callsNumbered { opened := s.txOpen, failed := s.txErr, calls := s.txCalls } [e])
    (closed_buf : t.txOpen = false → t.txBuf = []) (failed_buf : t.txErr = true → t.txBuf = [])
    (written : t.txOpen = true → t.txErr = false → bytesAfter (sessionBytes s.hist) e <:+ t.txLine ++ t.txBuf) :
    TransportInv t where
  closed_buf := closed_buf
  failed_buf := failed_buf
  view := by rw [hist, sessionView_snoc, h.view, view]
  numbered := by
    rw [hist, callsNumbered_snoc, h.view]
    exact ⟨h.numbered, numbered⟩
  written ho he := by
    rw [hist, sessionBytes_snoc]
    exact written ho he

/-- An accepted call puts the same bytes at the end of the session's bytes and of the buffer. -/
theorem TransportInv.accept {s : State} (h : TransportInv s) (bytes : List Byte) (ho : s.txOpen = true)
    (he : s.txErr = false) : TransportInv (s.countCall.spendOk.accept bytes) := by
  refine h.record rfl rfl ⟨rfl, trivial⟩ (by simp [ho]) (by simp [he]) fun _ _ => ?_
  obtain ⟨before, hb⟩ := h.written ho he
  exact ⟨before, by simp [bytesAfter, ← List.append_assoc, hb]⟩

/-- Every move of the transport keeps the invariant. -/
theorem TransportMove.keeps_inv {s t : State} (m : TransportMove s t) (h : TransportInv s) : TransportInv t := by
  cases m with
  | kept hk => exact h.of_kept hk
  | drain => exact h.drainMoment
  | accept bytes ho he => exact h.accept bytes ho he
  | failWrite bytes _ _ => exact h.record rfl rfl ⟨rfl, trivial⟩ (fun _ => rfl) (fun _ => rfl) nofun
  | flush _ _ =>
    exact h.record rfl rfl ⟨trivial, trivial⟩ (fun _ => rfl) (fun _ => rfl) (by simpa [bytesAfter] using h.written)
  | failFlush _ _ => exact h.record rfl rfl ⟨rfl, trivial⟩ (fun _ => rfl) (fun _ => rfl) nofun
  | acquire _ =>
    exact h.record rfl rfl ⟨trivial, trivial⟩ (fun _ => rfl) (fun _ => rfl) (fun _ _ => List.nil_suffix)
  | release _ => exact h.record rfl rfl ⟨trivial, trivial⟩ (fun _ => rfl) (fun _ => rfl) nofun
  | wait ms => exact h.record rfl rfl ⟨trivial, trivial⟩ h.closed_buf h.failed_buf h.written

theorem TransportMoves.keeps_inv {s t : State} (m : TransportMoves s t) (h : TransportInv s) : TransportInv t := by
  induction m with
  | refl => exact h
  | tail _ hmove ih => exact hmove.keeps_inv ih

/-- Settles O39: a step is a sequence of moves, and each move keeps the invariant. -/
theorem stepKeepsTheInvariant : Obligations.StepKeepsTheInvariant :=
  fun _ _ h hstep => (step_moves hstep).keeps_inv h

/-- Settles O38. -/
theorem resetMeetsTheInvariant : Obligations.ResetMeetsTheInvariant where
  closed_buf _ := rfl
  failed_buf _ := rfl
  view := rfl
  numbered := trivial
  written := nofun

end Sys2Proof.Safety
end

section
/-! SUPPORT. What a run adds to `TX.line`, `TX.buf` and `HIST` (10_state.md R19, R22; 20_memory.md R55). -/

namespace Sys2Proof.Safety

open Sys2Proof.Machine

/-- No session opens, closes or fails in these events. -/
def Undisturbed (events : List Event) : Prop := ∀ e ∈ events, e ≠ .opened ∧ e ≠ .closed ∧ isFail e = false

theorem undisturbed_append {g h : List Event} : Undisturbed (g ++ h) ↔ Undisturbed g ∧ Undisturbed h :=
  List.forall_mem_append

/-- From `s` to `t` the events `new` are recorded: the line grows at its end and, when the session is undisturbed, the line and
the buffer together grow by the bytes of the writes. -/
structure Adds (new : List Event) (s t : State) : Prop where
  hist : t.hist = s.hist ++ new
  line : s.txLine <+: t.txLine
  carried : Undisturbed new → t.txLine ++ t.txBuf = s.txLine ++ s.txBuf ++ sessionBytes new

namespace Adds

variable {s t u : State} {new more : List Event}

theorem refl (s : State) : Adds [] s s := ⟨by simp, List.prefix_rfl, by simp⟩

theorem trans (h : Adds new s t) (h' : Adds more t u) : Adds (new ++ more) s u where
  hist := by rw [h'.hist, h.hist, List.append_assoc]
  line := h.line.trans h'.line
  carried hq := by
    obtain ⟨hnew, hmore⟩ := undisturbed_append.mp hq
    rw [h'.carried hmore, h.carried hnew, sessionBytes_append new more fun e he => (hmore e he).1, List.append_assoc]

/-- One event that disturbs the session: of the buffer nothing is said. -/
theorem disturbing {e : Event} (hhist : t.hist = s.hist ++ [e]) (hline : s.txLine <+: t.txLine)
    (he : ¬ Undisturbed [e]) : Adds [e] s t :=
  ⟨hhist, hline, fun hq => absurd hq he⟩

end Adds

theorem drainMoment_line (s : State) : s.txLine <+: s.drainMoment.txLine := by
  rcases drainMoment_cases s with h | ⟨-, -, -, h⟩
  · rw [h]
  · rw [h]; exact List.prefix_append _ _

/-- Every move of the transport adds to the line and the history at their ends. -/
theorem TransportMove.adds {s t : State} (m : TransportMove s t) : ∃ new, Adds new s t := by
  cases m with
  | kept h => exact ⟨[], by simp [h.hist], by simp [h.txLine], by simp [h.txLine, h.txBuf]⟩
  | drain => exact ⟨[], by simp, drainMoment_line s, by simp⟩
  | accept bytes _ _ => exact ⟨[.write (s.txCalls + 1) bytes], rfl, List.prefix_rfl, by simp [sessionBytes, bytesAfter]⟩
  | failWrite bytes _ _ =>
    exact ⟨[.failed (s.txCalls + 1) .write], .disturbing rfl (List.prefix_append _ _) (by simp [Undisturbed, isFail])⟩
  | flush _ _ => exact ⟨[.flush], rfl, List.prefix_append _ _, by simp [sessionBytes, bytesAfter]⟩
  | failFlush _ _ =>
    exact ⟨[.failed s.txCalls .flush], .disturbing rfl (List.prefix_append _ _) (by simp [Undisturbed, isFail])⟩
  | acquire _ => exact ⟨[.opened], .disturbing rfl List.prefix_rfl (by simp [Undisturbed])⟩
  | release _ => exact ⟨[.closed], .disturbing rfl (List.prefix_append _ _) (by simp [Undisturbed])⟩
  | wait ms => exact ⟨[.wait ms], rfl, List.prefix_rfl, by simp [sessionBytes, bytesAfter]⟩

theorem TransportMoves.adds {s t : State} (m : TransportMoves s t) : ∃ new, Adds new s t := by
  induction m with
  | refl => exact ⟨[], .refl s⟩
  | tail _ hmove ih =>
    obtain ⟨new, hnew⟩ := ih
    obtain ⟨more, hmore⟩ := hmove.adds
    exact ⟨new ++ more, hnew.trans hmore⟩

/-- Settles O40, from what the moves of a run add. -/
theorem lineAndHistoryOnlyGrow : Obligations.LineAndHistoryOnlyGrow := by
  intro k s t h
  obtain ⟨new, hadds⟩ := (run_moves k s t h).adds
  exact ⟨hadds.line, new, hadds.hist.symm⟩

/-- Settles O41: the events added are the given ones, and the moves of a run carry their bytes. -/
theorem sessionCarriesEveryAcceptedByte : Obligations.SessionCarriesEveryAcceptedByte := by
  intro k s t new h hhist hquiet
  obtain ⟨added, hadds⟩ := (run_moves k s t h).adds
  have hsame : added = new := List.append_cancel_left (hadds.hist.symm.trans hhist)
  exact hsame ▸ hadds.carried (hsame ▸ hquiet)

end Sys2Proof.Safety
end

section
/-! SUPPORT. `STATUS` bit by bit (10_state.md R24), and the state after reset (R31, 70_reset_and_hazards.md R170). -/

namespace Sys2Proof.Machine

@[simp] theorem pendingFlag_eq_true {s : State} : pendingFlag s = true ↔ s.txBuf ≠ [] := by
  simp [pendingFlag]

/-- The packing of `STATUS`: three flags, then zeros. -/
theorem statusByte_getLsbD (s : State) (k : Nat) :
    (statusByte s).getLsbD k =
      if k = 0 then s.txOpen else if k = 1 then s.txErr else if k = 2 then pendingFlag s else false := by
  simp only [statusByte, BitVec.getLsbD_append, BitVec.getLsbD_ofBool]
  match k with
  | 0 => simp
  | 1 => simp
  | 2 => simp
  | k + 3 => simp

/-- Settles O35, from the packing. -/
theorem statusBitByBit : Obligations.StatusBitByBit := by
  refine ⟨rfl, fun s => ⟨?_, ?_, ?_, fun k hk => ?_⟩⟩ <;> rw [statusByte_getLsbD]
  · rfl
  · rfl
  · exact pendingFlag_eq_true
  · rw [if_neg (by omega), if_neg (by omega), if_neg (by omega)]

/-- The entry of the encode table at a byte is the byte's block (10_state.md R12). -/
theorem encTable_getElem? (c : LineCode) (b : Byte) : (encTable c)[b.toNat]? = some (encByte c b) := by
  simp [encTable, b.isLt]

/-- Settles O37: the table holds its content, and the other values stand in `State.reset`. -/
theorem resetLeaves : Obligations.ResetLeaves :=
  ⟨encTable_getElem? Config.line, rfl, rfl, rfl, rfl, rfl, rfl, rfl, rfl, rfl⟩

end Sys2Proof.Machine
end

section
/-! SUPPORT. The symbols of a block (20_memory.md R44) and the blocks of a WireFrame (30_encoding.md R61 to R63). -/

namespace Sys2Proof.Machine

/-- A block is its eight data symbols between two framing symbols. -/
theorem encByte_eq_framed (c : LineCode) (b : Byte) :
    encByte c b = c.symD :: ((List.range 8).map (fun i => sym c (b.getLsbD (7 - i))) ++ [c.symD]) := rfl

/-- Symbol `1+i` of a block carries bit `7-i` of its byte (20_memory.md R44). -/
theorem encByte_getElem?_data (c : LineCode) (b : Byte) {i : Nat} (hi : i < 8) :
    (encByte c b)[1 + i]? = some (sym c (b.getLsbD (7 - i))) := by
  rw [encByte_eq_framed, Nat.add_comm, List.getElem?_cons_succ, List.getElem?_append_left (by simpa using hi)]
  simp [hi]

/-- Settles O9, from the framing symbols and the data symbols between them. -/
theorem blockSymbolBySymbol : Obligations.BlockSymbolBySymbol :=
  fun c b => ⟨encByte_length c b, rfl, rfl, fun _ hi => encByte_getElem?_data c b hi⟩

/-- Block 0 of a stream is its first ten symbols. -/
theorem blockAt_append_zero {blk : List Byte} (rest : List Byte) (h : blk.length = 10) :
    blockAt (blk ++ rest) 0 = blk :=
  List.take_left' h

/-- After `m` whole blocks the blocks of what follows are counted from `m`. -/
theorem blockAt_append_add {f : List Byte} {m : Nat} (rest : List Byte) (h : f.length = m * 10) (k : Nat) :
    blockAt (f ++ rest) (m + k) = blockAt rest k := by
  have hsplit : 10 * (m + k) = f.length + 10 * k := by omega
  rw [blockAt, hsplit, List.drop_length_add_append, blockAt]

/-- In the blocks of a byte list, block `k` is that of byte `k`. -/
theorem blockAt_flatMap_encByte (c : LineCode) (rest : List Byte) {l : List Byte} {k : Nat} {b : Byte}
    (h : l[k]? = some b) : blockAt (l.flatMap (encByte c) ++ rest) k = encByte c b := by
  induction l generalizing k with
  | nil => simp at h
  | cons x l ih =>
    rw [List.flatMap_cons, List.append_assoc]
    cases k with
    | zero =>
      obtain rfl : x = b := by simpa using h
      exact blockAt_append_zero _ (encByte_length c x)
    | succ k =>
      rw [Nat.add_comm k 1, blockAt_append_add _ (encByte_length c x)]
      exact ih (by simpa using h)

/-- The first block of a frame is the marked block of START (30_encoding.md R63). -/
theorem blockAt_encTransaction_first (c : LineCode) (addr : Addr) (payload : List Byte) :
    blockAt (encTransaction c addr payload) 0 = markedBlock c c.startMark := by
  rw [encTransaction_eq, List.append_assoc]
  exact blockAt_append_zero _ (markedBlock_length c _)

/-- Block `1+k` of a frame is that of byte `k` of the address, the pad and the payload (30_encoding.md R61, R62). -/
theorem blockAt_encTransaction_inner (c : LineCode) (addr : Addr) {payload : List Byte} {k : Nat} {b : Byte}
    (h : (addressBytes addr ++ [Config.pad] ++ payload)[k]? = some b) :
    blockAt (encTransaction c addr payload) (1 + k) = encByte c b := by
  rw [encTransaction_eq, List.append_assoc, blockAt_append_add _ (markedBlock_length c _)]
  exact blockAt_flatMap_encByte c _ h

/-- Block `5+i` of a frame is that of payload byte `i`. -/
theorem blockAt_encTransaction_payload (c : LineCode) (addr : Addr) {payload : List Byte} {i : Nat} {b : Byte}
    (h : payload[i]? = some b) : blockAt (encTransaction c addr payload) (5 + i) = encByte c b := by
  have hbyte : (addressBytes addr ++ [Config.pad] ++ payload)[4 + i]? = some b := by
    rw [List.getElem?_append_right (by simp)]
    simpa using h
  rw [show 5 + i = 1 + (4 + i) by omega]
  exact blockAt_encTransaction_inner c addr hbyte

/-- The last block of a frame is the marked block of STOP (30_encoding.md R63). -/
theorem blockAt_encTransaction_last (c : LineCode) (addr : Addr) (payload : List Byte) :
    blockAt (encTransaction c addr payload) (payload.length + 5) = markedBlock c c.stopMark := by
  have hbefore : (markedBlock c c.startMark ++ innerBlocks c addr payload).length = (payload.length + 5) * 10 := by
    simp; omega
  rw [encTransaction_eq]
  exact (blockAt_append_add _ hbefore 0).trans (List.take_of_length_le (markedBlock_length c _).le)

/-- Settles O11: the marked blocks at the ends, and between them the blocks of the address, the pad and the payload. -/
theorem frameBlockByBlock : Obligations.FrameBlockByBlock := fun c addr payload =>
  ⟨encTransaction_length c addr payload,
    blockAt_encTransaction_first c addr payload,
    blockAt_encTransaction_inner c addr (k := 0) rfl,
    blockAt_encTransaction_inner c addr (k := 1) rfl,
    blockAt_encTransaction_inner c addr (k := 2) rfl,
    blockAt_encTransaction_inner c addr (k := 3) rfl,
    fun _ _ h => blockAt_encTransaction_payload c addr h,
    blockAt_encTransaction_last c addr payload⟩

end Sys2Proof.Machine
end

section
/-! SUPPORT. The flush as a barrier (20_memory.md R56): what `TXF` and `SEND` leave when they end without fault. -/

namespace Sys2Proof.Machine

/-- A flush that ends without fault is the whole drain (41_transport.md R93). -/
theorem flushBytes_of_done {s : State} (h : (flushBytes s).result = .done) :
    flushBytes s = s.spendOk.drainAll.finish := by
  rcases flushBytes_cases s with ⟨-, e⟩ | ⟨-, -, e⟩ | ⟨-, -, -, e⟩ | ⟨-, -, -, e⟩
  · simp [e] at h
  · simp [e] at h
  · exact e
  · simp [e] at h

/-- A `SEND` that ends without fault has written its frame as one call and then drained the buffer (41_transport.md R95). -/
theorem sendFrame_of_done {addr : Addr} {payload : List Byte} {s : State}
    (h : (sendFrame addr payload s).result = .done) :
    sendFrame addr payload s =
      ((s.setRes (encTransaction Config.line addr payload)).finish.countCall.spendOk.accept
        (encTransaction Config.line addr payload)).finish.spendOk.drainAll.finish := by
  rcases sendFrame_cases addr payload s with
    ⟨f, -, e⟩ | ⟨-, s1, rfl, ⟨-, e⟩ | ⟨-, -, e⟩ | ⟨-, -, -, e⟩ | ⟨-, -, -, -, e⟩ | ⟨-, -, -, -, e⟩⟩
  · simp [e] at h
  · simp [e] at h
  · simp [e] at h
  · simp [e] at h
  · simp [e] at h
  · exact e

/-- Settles O32: without fault both operations end in a drain of the whole buffer, `SEND` after accepting its frame. -/
theorem flushIsTheBarrier : Obligations.FlushIsTheBarrier := by
  intro s t hdone
  refine ⟨fun h => ?_, fun addr payload h => ?_⟩
  · obtain rfl := eq_effect_of_exec h
    rw [effect, flushBytes_of_done hdone]
    exact ⟨rfl, rfl⟩
  · obtain rfl := eq_effect_of_exec h
    rw [effect, sendFrame_of_done hdone]
    exact ⟨rfl, (List.append_assoc _ _ _).symm⟩

end Sys2Proof.Machine
end

section
/-! SUPPORT. The expansions of the pseudo-instructions (42_command_layer.md R111 to R121). -/

namespace Sys2Proof.Machine

/-- `sector_erase` at an address whose three bytes are known (42_command_layer.md R116). -/
theorem sectorErase_of_flashAddress (c : CommandConstants) {a : Addr} {hi mid lo : Byte}
    (h : flashAddress a = [hi, mid, lo]) :
    sectorErase c a = writeEnable c ++ [Instr.send c.aCsOn [c.vCsOn], Instr.send c.aFdata [c.opSe, hi, mid, lo],
      Instr.send c.aCsOff [c.vCsOff], Instr.dly 250] := by
  rw [sectorErase, eraseCommand, h, List.append_assoc]
  rfl

/-- `page_program` at an address whose three bytes are known (42_command_layer.md R117). -/
theorem pageProgram_of_flashAddress (c : CommandConstants) {a : Addr} {hi mid lo : Byte} (data : List Byte)
    (h : flashAddress a = [hi, mid, lo]) :
    pageProgram c a data = writeEnable c ++ [Instr.send c.aCsOn [c.vCsOn], Instr.send c.aSwsid [c.vFifoOn],
      Instr.send c.aFdata ([c.opPp, hi, mid, lo] ++ data), Instr.send c.aSwsid [c.vFifoOff],
      Instr.send c.aCsOff [c.vCsOff], Instr.dly 10] := by
  rw [pageProgram, programCommand, programBurst, h, List.append_assoc]
  rfl

@[simp] theorem forceHalt_zero (c : CommandConstants) (dur : Nat) : forceHalt c dur 0 = [] := rfl

/-- One more turn of the halt loop stands before the others (42_command_layer.md R118). -/
theorem forceHalt_succ (c : CommandConstants) (dur n : Nat) :
    forceHalt c dur (n + 1) =
      [Instr.send c.aPwdn [c.vReset], Instr.send c.aCpuctl [c.vCpuStop], Instr.dly 1] ++ forceHalt c dur n := by
  rw [forceHalt, List.replicate_succ, List.flatten_cons]
  rfl

/-- Settles O43: the flash commands from the bytes of their address, the halt loop turn by turn, and the rest as defined. -/
theorem expansionsWrittenOut : Obligations.ExpansionsWrittenOut := by
  intro c a opcode extra data dur
  refine ⟨rfl, rfl, rfl, rfl, rfl, rfl, rfl, ?_, ?_, ?_, ?_, ?_, ?_, ?_, ?_, forceHalt_zero c dur,
    forceHalt_succ c dur, ?_, rfl, rfl⟩
  · exact sectorErase_of_flashAddress c rfl
  · exact sectorErase_of_flashAddress c rfl
  · exact sectorErase_of_flashAddress c rfl
  · exact sectorErase_of_flashAddress c rfl
  · exact pageProgram_of_flashAddress c data rfl
  · exact pageProgram_of_flashAddress c data rfl
  · exact pageProgram_of_flashAddress c data rfl
  · exact pageProgram_of_flashAddress c data rfl
  · simp only [forceHalt_succ, forceHalt_zero, List.cons_append, List.nil_append]

end Sys2Proof.Machine
end

section
/-! SUPPORT. The command port (30_encoding.md R65 to R67): which command words are legal, how each kind of operation is read,
and what a step does with what stands at the port. -/

namespace Sys2Proof

/-- The command word of an operation (30_encoding.md R65). -/
def Instr.word (i : Instr) : Word32 := commandWord i.opCode i.argField

theorem encode_eq (i : Instr) : encode i = .word i.word :: i.stream := rfl

@[simp] theorem decodeBeats_nil : decodeBeats [] = .awaiting := rfl

theorem decodeBeats_of_legal {w : Word32} (beats : List Beat) (h : illegalReason w = none) :
    decodeBeats (.word w :: beats) = decodeLegal w beats := by
  rw [decodeBeats, h]

theorem decodeBeats_of_illegal {w : Word32} {why : IllegalReason} (beats : List Beat) (h : illegalReason w = some why) :
    decodeBeats (.word w :: beats) = .illegal why w beats := by
  rw [decodeBeats, h]

/-- An operation is read only from a legal command word. -/
theorem legal_of_decodeBeats_instr {beats rest : List Beat} {i : Instr} (h : decodeBeats beats = .instr i rest) :
    ∃ w more, beats = .word w :: more ∧ illegalReason w = none ∧ decodeLegal w more = .instr i rest := by
  match beats with
  | [] => simp at h
  | .data b :: more => simp [decodeBeats] at h
  | .word w :: more =>
    rcases hw : illegalReason w with _ | why
    · exact ⟨w, more, rfl, hw, by rwa [decodeBeats_of_legal more hw] at h⟩
    · simp [decodeBeats_of_illegal more hw] at h

/-! Legal words are the command words of operations. -/

theorem word_legal (i : Instr) : illegalReason i.word = none := by
  cases i with
  | encb b => exact (Laws.LegalWord.encb b).1
  | enct addr payload => exact (Laws.LegalWord.enct addr payload).1
  | send addr payload => exact (Laws.LegalWord.send addr payload).1
  | txw bytes => exact (Laws.LegalWord.txw bytes).1
  | txf => exact Laws.LegalWord.txf.1
  | txo => exact Laws.LegalWord.txo.1
  | txc => exact Laws.LegalWord.txc.1
  | dly ms => exact (Laws.LegalWord.dly ms).1

/-- The eight `op` codes a legal word can have. -/
theorem op_cases (op : BitVec 4) (h0 : op ≠ 0) (h9 : ¬ 9 ≤ op.toNat) :
    op = 1 ∨ op = 2 ∨ op = 3 ∨ op = 4 ∨ op = 5 ∨ op = 6 ∨ op = 7 ∨ op = 8 := by
  revert op; decide

/-- A 24-bit field with bits 23:8 zero is its low byte. -/
theorem low_byte_setWidth {arg : Addr} (h : arg.extractLsb' 8 16 = 0) : (arg.extractLsb' 0 8).setWidth 24 = arg := by
  have hhigh : arg.toNat / 256 % 65536 = 0 := by
    simpa [Nat.shiftRight_eq_div_pow] using congrArg BitVec.toNat h
  have hlt : arg.toNat < 16777216 := arg.isLt
  apply BitVec.eq_of_toNat_eq
  simp
  omega

/-- Every legal word is the command word of an operation. -/
theorem exists_word_of_legal {w : Word32} (h : illegalReason w = none) : ∃ i : Instr, i.word = w := by
  obtain ⟨h0, h9, hrsv, hbyte, harg⟩ := legal_fields h
  have key : ∀ i : Instr, cwOp w = i.opCode → cwArg w = i.argField → ∃ i : Instr, i.word = w :=
    fun i hop ha => ⟨i, by rw [Instr.word, ← hop, ← ha, commandWord_fields w hrsv]⟩
  rcases op_cases _ h0 h9 with e | e | e | e | e | e | e | e
  · exact key (.encb ((cwArg w).extractLsb' 0 8)) e (low_byte_setWidth (hbyte e)).symm
  · exact key (.enct (cwArg w) []) e rfl
  · exact key (.send (cwArg w) []) e rfl
  · exact key (.txw []) e (harg (by simp [e]) (by simp [e]))
  · exact key .txf e (harg (by simp [e]) (by simp [e]))
  · exact key .txo e (harg (by simp [e]) (by simp [e]))
  · exact key .txc e (harg (by simp [e]) (by simp [e]))
  · exact key (.dly (cwArg w)) e rfl

/-- The check of a command word finds a reason exactly in the cases of 30_encoding.md R67. -/
theorem legal_iff_not_illegalWord (w : Word32) : illegalReason w = none ↔ ¬ Safety.IllegalWord w := by
  have hop : (cwOp w = 4 ∨ cwOp w = 5 ∨ cwOp w = 6 ∨ cwOp w = 7) ↔ 4 ≤ (cwOp w).toNat ∧ (cwOp w).toNat ≤ 7 := by
    generalize cwOp w = op
    revert op; decide
  rw [Safety.IllegalWord, hop, and_assoc, illegalReason]
  split_ifs <;> simp_all

/-! Reading the operation of a legal word: it stands alone, or it takes an operand stream. -/

/-- The operation is its command word alone: it is read whatever follows, and takes nothing of it. -/
structure StandsAlone (i : Instr) : Prop where
  stream : i.stream = []
  decode : ∀ beats, decodeLegal i.word beats = .instr i beats

/-- The command word `w` takes an operand stream, of which `mk` makes the operation (30_encoding.md R66). -/
structure TakesStream (w : Word32) (mk : List Byte → Instr) : Prop where
  word : ∀ bytes, (mk bytes).word = w
  stream : ∀ bytes, (mk bytes).stream = operandBeats bytes
  decode : ∀ beats, decodeLegal w beats = takeOperands mk beats

theorem Instr.presentation (i : Instr) :
    StandsAlone i ∨ ∃ mk bytes, i = mk bytes ∧ TakesStream i.word mk := by
  cases i with
  | encb b =>
    have hbyte : (b.setWidth 24).extractLsb' 0 8 = b := by
      rw [BitVec.extractLsb'_setWidth_of_le (by decide), BitVec.extractLsb'_eq_self]
    exact .inl ⟨rfl, fun _ => by simp [decodeLegal, Instr.word, opCode, argField, hbyte]⟩
  | enct addr payload =>
    exact .inr ⟨.enct addr, payload, rfl, fun _ => rfl, fun _ => rfl,
      fun _ => by simp [decodeLegal, Instr.word, opCode, argField]⟩
  | send addr payload =>
    exact .inr ⟨.send addr, payload, rfl, fun _ => rfl, fun _ => rfl,
      fun _ => by simp [decodeLegal, Instr.word, opCode, argField]⟩
  | txw bytes =>
    exact .inr ⟨.txw, bytes, rfl, fun _ => rfl, fun _ => rfl,
      fun _ => by simp [decodeLegal, Instr.word, opCode]⟩
  | txf => exact .inl ⟨rfl, fun _ => by simp [decodeLegal, Instr.word, opCode]⟩
  | txo => exact .inl ⟨rfl, fun _ => by simp [decodeLegal, Instr.word, opCode]⟩
  | txc => exact .inl ⟨rfl, fun _ => by simp [decodeLegal, Instr.word, opCode]⟩
  | dly ms => exact .inl ⟨rfl, fun _ => by simp [decodeLegal, Instr.word, opCode, argField]⟩

/-- An operation is well formed when its operand bytes can be counted by a `LEN` word (30_encoding.md R66). -/
theorem Instr.wellFormed_iff (i : Instr) : i.WellFormed ↔ i.operands.length < streamBound := by
  have hnil : True ↔ ([] : List Byte).length < streamBound := by simp [streamBound]
  cases i with
  | enct _ _ => exact Iff.rfl
  | send _ _ => exact Iff.rfl
  | txw _ => exact Iff.rfl
  | encb _ => exact hnil
  | txf => exact hnil
  | txo => exact hnil
  | txc => exact hnil
  | dly _ => exact hnil

theorem Instr.wellFormed_of_stream {i : Instr} {bytes : List Byte} (h : i.stream = operandBeats bytes) :
    i.WellFormed ↔ bytes.length < streamBound := by
  rw [wellFormed_iff, operands_of_stream h]

theorem StandsAlone.wellFormed {i : Instr} (h : StandsAlone i) : i.WellFormed := by
  rw [Instr.wellFormed_iff, Instr.operands_of_stream_nil h.stream]
  simp [streamBound]

/-! Operand streams, whole and cut. -/

/-- What `takeOperands` makes an operation of is the operand stream that stood there. -/
theorem takeOperands_instr {mk : List Byte → Instr} {beats rest : List Beat} {i : Instr}
    (h : takeOperands mk beats = .instr i rest) :
    ∃ bytes, i = mk bytes ∧ bytes.length < streamBound ∧ beats = operandBeats bytes ++ rest := by
  match beats with
  | [] => simp [takeOperands] at h
  | .data _ :: _ => simp [takeOperands] at h
  | .word len :: more =>
    rw [takeOperands] at h
    split at h
    · next bytes r ht =>
      obtain ⟨rfl, rfl⟩ := Decoded.instr.inj h
      obtain ⟨rfl, hlen⟩ := takeData_all ht
      refine ⟨bytes, rfl, hlen ▸ len.isLt, ?_⟩
      simp [operandBeats, hlen]
    · simp at h
    · simp at h

/-- An operand stream holds no command word, so none is found illegal in it. -/
theorem takeOperands_ne_illegal (mk : List Byte → Instr) (beats rest : List Beat) (why : IllegalReason) (w : Word32) :
    takeOperands mk beats ≠ .illegal why w rest := by
  match beats with
  | [] => simp [takeOperands]
  | .data _ :: _ => simp [takeOperands]
  | .word len :: more =>
    rw [takeOperands]
    split <;> simp

/-- Data beats fewer than due are waited for. -/
theorem takeData_short {bytes : List Byte} {n : Nat} (h : bytes.length < n) :
    takeData (bytes.map .data) n = .short := by
  induction bytes generalizing n with
  | nil =>
    obtain ⟨n, rfl⟩ := Nat.exists_eq_add_one_of_ne_zero (Nat.ne_zero_of_lt h)
    rfl
  | cons b bytes ih =>
    obtain ⟨n, rfl⟩ := Nat.exists_eq_add_one_of_ne_zero (Nat.ne_zero_of_lt h)
    simp [takeData, ih (Nat.lt_of_succ_lt_succ h), Taken.push]

/-- A cut operand stream is waited for (30_encoding.md R66). -/
theorem takeOperands_cut (mk : List Byte → Instr) {bytes : List Byte} {beats missing : List Beat}
    (hlen : bytes.length < streamBound) (hcut : operandBeats bytes = beats ++ missing) (hm : missing ≠ []) :
    takeOperands mk beats = .awaiting := by
  match beats with
  | [] => rfl
  | beat :: more =>
    obtain ⟨rfl, hdata⟩ := List.cons.inj hcut
    obtain ⟨taken, left, rfl, rfl, rfl⟩ := List.map_eq_append_iff.mp hdata
    have hshort : taken.length < (taken ++ left).length := by
      simpa [List.length_pos_iff] using hm
    rw [takeOperands, BitVec.toNat_ofNat, Nat.mod_eq_of_lt (show _ < 2 ^ 32 from hlen), takeData_short hshort]

/-! The decoder on a whole encoding, on a cut one and on any legal word. -/

theorem decodeBeats_word (i : Instr) (beats : List Beat) :
    decodeBeats (.word i.word :: beats) = decodeLegal i.word beats :=
  decodeBeats_of_legal beats (word_legal i)

/-- The operation read from a command word has that word, and the beats taken are its stream. -/
theorem decodeLegal_instr {i j : Instr} {beats rest : List Beat} (h : decodeLegal i.word beats = .instr j rest) :
    j.WellFormed ∧ j.word = i.word ∧ beats = j.stream ++ rest := by
  rcases i.presentation with halone | ⟨mk, -, -, hmk⟩
  · rw [halone.decode] at h
    obtain ⟨rfl, rfl⟩ := Decoded.instr.inj h
    exact ⟨halone.wellFormed, rfl, by rw [halone.stream, List.nil_append]⟩
  · rw [hmk.decode] at h
    obtain ⟨bytes, rfl, hlen, rfl⟩ := takeOperands_instr h
    exact ⟨(Instr.wellFormed_of_stream (hmk.stream bytes)).mpr hlen, hmk.word bytes, by rw [hmk.stream]⟩

theorem decodeLegal_word_ne_illegal (i : Instr) (beats rest : List Beat) (why : IllegalReason) (w : Word32) :
    decodeLegal i.word beats ≠ .illegal why w rest := by
  rcases i.presentation with halone | ⟨mk, -, -, hmk⟩
  · simp [halone.decode]
  · rw [hmk.decode]
    exact takeOperands_ne_illegal mk beats rest why w

/-- Settles O1: after the command word nothing is due, or the operand stream, which is read back whole. -/
theorem decodeEncodeRoundTrip : Obligations.DecodeEncodeRoundTrip := by
  intro i rest hwf
  rw [encode_eq, List.cons_append, decodeBeats_word]
  rcases i.presentation with halone | ⟨mk, bytes, hi, hmk⟩
  · rw [halone.stream, halone.decode, List.nil_append]
  · have hstream : i.stream = operandBeats bytes := hi ▸ hmk.stream bytes
    rw [hstream, hmk.decode, takeOperands_beats mk rest ((Instr.wellFormed_of_stream hstream).mp hwf), hi]

/-- Settles O2: the first beat is a legal word, so the command word of an operation, and the rest follows from what that word
takes. -/
theorem decodedBeatsAreCanonical : Obligations.DecodedBeatsAreCanonical := by
  intro beats i rest h
  obtain ⟨w, more, rfl, hlegal, hd⟩ := legal_of_decodeBeats_instr h
  obtain ⟨j, rfl⟩ := exists_word_of_legal hlegal
  obtain ⟨hwf, hword, rfl⟩ := decodeLegal_instr hd
  exact ⟨hwf, by rw [encode_eq, hword, List.cons_append]⟩

/-- A legal word is never answered as illegal. -/
theorem illegal_of_decodeBeats_illegal {w w' : Word32} {beats rest : List Beat} {why : IllegalReason}
    (h : decodeBeats (.word w :: beats) = .illegal why w' rest) : Safety.IllegalWord w := by
  by_contra hlegal
  obtain ⟨i, rfl⟩ := exists_word_of_legal ((legal_iff_not_illegalWord w).mpr hlegal)
  exact decodeLegal_word_ne_illegal i beats rest why w' ((decodeBeats_word i beats).symm.trans h)

/-- The decoder names a reason for each illegal word and takes the word alone (30_encoding.md R67). -/
theorem decodeBeats_of_illegalWord {w : Word32} (beats : List Beat) (h : Safety.IllegalWord w) :
    ∃ why, decodeBeats (.word w :: beats) = .illegal why w beats := by
  rcases hw : illegalReason w with _ | why
  · exact absurd h ((legal_iff_not_illegalWord w).mp hw)
  · exact ⟨why, decodeBeats_of_illegal beats hw⟩

/-- Settles O4: the illegal words are those with a reason, and the legal ones the command words of operations. -/
theorem illegalWordsAreExactlyThose : Obligations.IllegalWordsAreExactlyThose := by
  refine fun w rest => ⟨⟨decodeBeats_of_illegalWord rest, fun ⟨_, h⟩ => illegal_of_decodeBeats_illegal h⟩, ?_⟩
  rw [← legal_iff_not_illegalWord]
  constructor
  · intro h
    obtain ⟨i, rfl⟩ := exists_word_of_legal h
    exact ⟨i, rfl⟩
  · rintro ⟨i, hi⟩
    obtain rfl : i.word = w := Beat.word.inj (List.cons.inj hi).1
    exact word_legal i

/-- A proper beginning of an encoding, the empty one included, is waited on (30_encoding.md R66). -/
theorem decodeBeats_cut {i : Instr} {beats missing : List Beat} (hwf : i.WellFormed)
    (hcut : encode i = beats ++ missing) (hm : missing ≠ []) : decodeBeats beats = .awaiting := by
  match beats with
  | [] => rfl
  | beat :: more =>
    obtain ⟨rfl, hstream⟩ := List.cons.inj hcut
    rw [← Instr.word, decodeBeats_word]
    rcases i.presentation with halone | ⟨mk, bytes, hi, hmk⟩
    · have hnil : more ++ missing = [] := hstream.symm.trans halone.stream
      exact absurd (List.append_eq_nil_iff.mp hnil).2 hm
    · have hbytes : i.stream = operandBeats bytes := hi ▸ hmk.stream bytes
      rw [hmk.decode]
      exact takeOperands_cut mk ((Instr.wellFormed_of_stream hbytes).mp hwf) (hbytes.symm.trans hstream) hm

/-- Settles O3: each word evaluates to its operation or its rejection. -/
theorem sampleWordsDecode : Obligations.SampleWordsDecode := by
  refine ⟨?_, ?_, ?_, ?_, ?_, ?_, ?_, ?_, ?_, ?_, ?_, ?_, ?_⟩ <;> decide

end Sys2Proof

namespace Sys2Proof.Machine

theorem step_of_instr {s : State} {i : Instr} {rest : List Beat} (h : decodeBeats s.port = .instr i rest) :
    step s = exec i (s.drainMoment.setPort rest) := by
  rw [step, h]

theorem step_of_illegal {s : State} {why : IllegalReason} {w : Word32} {rest : List Beat}
    (h : decodeBeats s.port = .illegal why w rest) : step s = .next (s.drainMoment.takeIllegal w rest) := by
  rw [step, h]

theorem step_of_awaiting {s : State} (h : decodeBeats s.port = .awaiting) : step s = .next s.drainMoment := by
  rw [step, h]

/-- Settles O6. -/
theorem stepRunsTheDecodedOperation : Obligations.StepRunsTheDecodedOperation :=
  fun _ _ _ => step_of_instr

/-- Settles O7: the decoder reads the presented operation back. -/
theorem presentedOperationRuns : Obligations.PresentedOperationRuns :=
  fun _ i rest hwf hport => step_of_instr (hport ▸ decodeEncodeRoundTrip i rest hwf)

/-- Settles O8: the decoder waits on every proper beginning of an encoding. -/
theorem operationWaitsForItsLastBeat : Obligations.OperationWaitsForItsLastBeat :=
  fun _ _ _ hwf hcut hm => step_of_awaiting (decodeBeats_cut hwf hcut hm)

/-- Settles O5: the decoder finds the word illegal, and taking it writes the fault, the result and the port. -/
theorem illegalWordOnlyRecordsItsFault : Obligations.IllegalWordOnlyRecordsItsFault := by
  intro s w rest hw hport
  obtain ⟨why, hd⟩ := decodeBeats_of_illegalWord rest hw
  rw [step_of_illegal (hport ▸ hd), ← drainMoment_txCalls s]
  rfl

end Sys2Proof.Machine
end

section
/-! SUPPORT. Reading WireFrames back (30_encoding.md R69): the byte of a block, the conditions of a well-formed frame block by
block, and a frame in front of a stream. -/

namespace Sys2Proof.Machine

/-! The byte of a block. -/

/-- Reading bits most significant first: bit `n-1-i` of the number is the `i`-th bit read. -/
theorem testBit_foldl_bits (p : Nat → Prop) [DecidablePred p] {n i : Nat} (hi : i < n) :
    ((List.range n).foldl (fun acc i => 2 * acc + (if p i then 1 else 0)) 0).testBit (n - 1 - i) = decide (p i) := by
  induction n with
  | zero => omega
  | succ n ih =>
    rw [List.range_succ, List.foldl_append, List.foldl_cons, List.foldl_nil]
    obtain rfl | hlt : i = n ∨ i < n := by omega
    · by_cases hp : p i <;> simp [hp, Nat.testBit_zero]
    · rw [show n + 1 - 1 - i = (n - 1 - i) + 1 by omega, Nat.testBit_succ, ← ih hlt]
      congr 1
      split <;> omega

/-- Bit `7-i` of the byte of a block is 1 exactly when symbol `1+i` is `SYM_A` (30_encoding.md R69). -/
theorem blockByte_getLsbD (c : LineCode) (blk : List Byte) {i : Nat} (hi : i < 8) :
    (blockByte c blk).getLsbD (7 - i) = true ↔ blk[1 + i]? = some c.symA := by
  have hbit := testBit_foldl_bits (fun i => blk[1 + i]? = some c.symA) hi
  have hlt : 7 - i < 8 := by omega
  rw [← decide_eq_true_iff (p := blk[1 + i]? = some c.symA), ← hbit, blockByte, BitVec.getLsbD_ofNat]
  simp [hlt]

theorem sym_eq_symA {c : LineCode} (hc : c.Valid) (bit : Bool) : sym c bit = c.symA ↔ bit = true := by
  cases bit
  · simpa [sym] using hc.symm
  · simp [sym]

theorem sym_eq_of_iff {c : LineCode} {x : Byte} {bit : Bool} (hx : x = c.symA ∨ x = c.symD)
    (hbit : bit = true ↔ x = c.symA) : sym c bit = x := by
  cases bit
  · exact (hx.resolve_left fun h => Bool.false_ne_true (hbit.mpr h)).symm
  · exact (hbit.mp rfl).symm

/-- Whatever its symbol 0, a block of `b` reads as `b`. -/
theorem blockByte_encByte_set {c : LineCode} (hc : c.Valid) (b x : Byte) :
    blockByte c ((encByte c b).set 0 x) = b := by
  apply BitVec.eq_of_getLsbD_eq
  intro j hj
  obtain ⟨i, hi, rfl⟩ : ∃ i < 8, j = 7 - i := ⟨7 - j, by omega, by omega⟩
  rw [Bool.eq_iff_iff, blockByte_getLsbD c _ hi, List.getElem?_set_ne (by omega), encByte_getElem?_data c b hi,
    Option.some_inj, sym_eq_symA hc]

@[simp] theorem encByte_set_symD (c : LineCode) (b : Byte) : (encByte c b).set 0 c.symD = encByte c b := rfl

/-- Ten symbols of the line code ending in the framing symbol are the block of their byte, up to symbol 0. -/
theorem eq_encByte_blockByte {c : LineCode} {blk : List Byte} {x : Byte} (hlen : blk.length = 10)
    (hsym : ∀ y ∈ blk, y = c.symA ∨ y = c.symD) (hlast : blk[9]? = some c.symD) (hfirst : blk[0]? = some x) :
    blk = (encByte c (blockByte c blk)).set 0 x := by
  apply List.ext_getElem?
  intro j
  obtain rfl | ⟨i, hi, rfl⟩ | rfl | hj : j = 0 ∨ (∃ i < 8, j = 1 + i) ∨ j = 9 ∨ 10 ≤ j := by
    by_cases h : 1 ≤ j ∧ j ≤ 8
    · exact .inr (.inl ⟨j - 1, by omega, by omega⟩)
    · omega
  · exact hfirst
  · have hget : blk[1 + i]? = some (blk[1 + i]'(by omega)) := List.getElem?_eq_getElem _
    have hbit : (blockByte c blk).getLsbD (7 - i) = true ↔ blk[1 + i]'(by omega) = c.symA := by
      rw [blockByte_getLsbD c blk hi, hget, Option.some_inj]
    rw [List.getElem?_set_ne (by omega), encByte_getElem?_data c _ hi,
      sym_eq_of_iff (hsym _ (List.getElem_mem _)) hbit, hget]
  · exact hlast
  · rw [List.getElem?_eq_none (by omega), List.getElem?_eq_none (by simpa using hj)]

/-! A byte list as its blocks. -/

theorem blockAt_getElem? (f : List Byte) (k : Nat) {i : Nat} (hi : i < 10) : (blockAt f k)[i]? = f[10 * k + i]? := by
  rw [blockAt, List.getElem?_take_of_lt hi, List.getElem?_drop]

theorem blockAt_length {f : List Byte} {m k : Nat} (hlen : f.length = m * 10) (hk : k < m) : (blockAt f k).length = 10 := by
  rw [blockAt, List.length_take, List.length_drop]
  omega

theorem mem_of_mem_blockAt {f : List Byte} {k : Nat} {x : Byte} (h : x ∈ blockAt f k) : x ∈ f :=
  List.mem_of_mem_drop (List.mem_of_mem_take h)

/-- Lists of `m` blocks are equal when their blocks are. -/
theorem eq_of_blockAt {f g : List Byte} {m : Nat} (hf : f.length = m * 10) (hg : g.length = m * 10)
    (h : ∀ k < m, blockAt f k = blockAt g k) : f = g := by
  apply List.ext_getElem?
  intro i
  by_cases hi : i < m * 10
  · have hmod : i % 10 < 10 := Nat.mod_lt _ (by omega)
    have hblock := congrArg (·[i % 10]?) (h (i / 10) (by omega))
    simpa only [blockAt_getElem? _ _ hmod, Nat.div_add_mod] using hblock
  · rw [List.getElem?_eq_none (by omega), List.getElem?_eq_none (by omega)]

/-! The conditions of 30_encoding.md R69 of a frame of `m` blocks. -/

/-- Symbol 0 of block `k` of a frame of `m` blocks: `SYM_A` in the first and the last block only (30_encoding.md R63). -/
def frameMark (c : LineCode) (m k : Nat) : Byte := if k = 0 ∨ k + 1 = m then c.symA else c.symD

/-- The conditions of `isWireFrame`, said of the blocks. -/
structure WireFrame (c : LineCode) (m : Nat) (f : List Byte) : Prop where
  count : 7 ≤ m
  length : f.length = m * 10
  symbols : ∀ x ∈ f, x = c.symA ∨ x = c.symD
  last : ∀ k < m, (blockAt f k)[9]? = some c.symD
  mark : ∀ k < m, (blockAt f k)[0]? = some (frameMark c m k)
  startByte : blockByte c (blockAt f 0) = c.startMark
  padByte : blockByte c (blockAt f 4) = Config.pad
  stopByte : blockByte c (blockAt f (m - 1)) = c.stopMark

/-- The marks of all blocks, as 30_encoding.md R69 lists them: the first, those between, the last. -/
theorem marks_iff (c : LineCode) (f : List Byte) {m : Nat} (hm : 2 ≤ m) :
    (∀ k < m, (blockAt f k)[0]? = some (frameMark c m k)) ↔
      f[0]? = some c.symA ∧ (∀ k < m, (k = 0 ∨ k = m - 1) ∨ f[10 * k]? = some c.symD) ∧
        f[10 * (m - 1)]? = some c.symA := by
  simp only [blockAt_getElem? f _ (Nat.zero_lt_succ 9), Nat.add_zero]
  constructor
  · intro h
    refine ⟨by simpa [frameMark] using h 0 (by omega), fun k hk => ?_, ?_⟩
    · by_cases hend : k = 0 ∨ k = m - 1
      · exact .inl hend
      · exact .inr (by rw [h k hk, frameMark, if_neg (by omega)])
    · rw [h (m - 1) (by omega), frameMark, if_pos (by omega)]
  · rintro ⟨hfirst, hinner, hlast⟩ k hk
    rw [frameMark]
    split
    · next hend =>
      obtain rfl | rfl : k = 0 ∨ k = m - 1 := by omega
      · exact hfirst
      · exact hlast
    · exact (hinner k hk).resolve_left (by omega)

/-- `isWireFrame` checks the conditions of a frame of some number of blocks. -/
theorem isWireFrame_iff (c : LineCode) (f : List Byte) : isWireFrame c f = true ↔ ∃ m, WireFrame c m f := by
  have hmarks := marks_iff c f (m := f.length / 10)
  have hlast : ∀ k, (blockAt f k)[9]? = f[10 * k + 9]? := fun k => blockAt_getElem? f k (by decide)
  simp only [isWireFrame, Bool.and_eq_true, beq_iff_eq, decide_eq_true_iff, List.all_eq_true, Bool.or_eq_true,
    List.mem_range, and_assoc]
  constructor
  · rintro ⟨hmod, hmin, hsym, hframing, hfirst, hinner, hstop, hstartByte, hpadByte, hstopByte⟩
    rw [show f.length - 10 = 10 * (f.length / 10 - 1) by omega] at hstop
    exact ⟨f.length / 10,
      { count := by omega
        length := by omega
        symbols := hsym
        last := fun k hk => (hlast k).trans (hframing k hk)
        mark := (hmarks (by omega)).mpr ⟨hfirst, hinner, hstop⟩
        startByte := hstartByte
        padByte := hpadByte
        stopByte := hstopByte }⟩
  · rintro ⟨m, h⟩
    have hcount := h.count
    have hlength := h.length
    obtain rfl : m = f.length / 10 := by omega
    obtain ⟨hfirst, hinner, hstop⟩ := (hmarks (by omega)).mp h.mark
    rw [show f.length - 10 = 10 * (f.length / 10 - 1) by omega]
    exact ⟨by omega, by omega, h.symbols, fun k hk => (hlast k).symm.trans (h.last k hk), hfirst, hinner, hstop,
      h.startByte, h.padByte, h.stopByte⟩

/-- A block of a well-formed frame is the block of its byte, with the mark of its place. -/
theorem WireFrame.blockAt_eq {c : LineCode} {m k : Nat} {f : List Byte} (h : WireFrame c m f) (hk : k < m) :
    blockAt f k = (encByte c (blockByte c (blockAt f k))).set 0 (frameMark c m k) :=
  eq_encByte_blockByte (blockAt_length h.length hk) (fun y hy => h.symbols y (mem_of_mem_blockAt hy)) (h.last k hk)
    (h.mark k hk)

/-! The frame of a LogicalWrite is well formed, and its blocks read as the logical bytes. -/

theorem sym_symbol (c : LineCode) (bit : Bool) : sym c bit = c.symA ∨ sym c bit = c.symD := by
  cases bit
  · exact .inr rfl
  · exact .inl rfl

theorem encByte_symbols (c : LineCode) (b : Byte) : ∀ x ∈ encByte c b, x = c.symA ∨ x = c.symD := by
  intro x hx
  rw [encByte_eq_framed] at hx
  simp only [List.mem_cons, List.mem_append, List.mem_map, List.not_mem_nil, or_false] at hx
  obtain rfl | ⟨i, -, rfl⟩ | rfl := hx
  · exact .inr rfl
  · exact sym_symbol c _
  · exact .inr rfl

theorem markedBlock_symbols (c : LineCode) (b : Byte) : ∀ x ∈ markedBlock c b, x = c.symA ∨ x = c.symD := by
  intro x hx
  obtain hx | rfl := List.mem_or_eq_of_mem_set hx
  · exact encByte_symbols c b x hx
  · exact .inl rfl

theorem encTransaction_symbols (c : LineCode) (addr : Addr) (payload : List Byte) :
    ∀ x ∈ encTransaction c addr payload, x = c.symA ∨ x = c.symD := by
  intro x hx
  rw [encTransaction_eq, List.mem_append, List.mem_append] at hx
  obtain (hx | hx) | hx := hx
  · exact markedBlock_symbols c _ x hx
  · obtain ⟨b, -, hx⟩ := List.mem_flatMap.mp hx
    exact encByte_symbols c b x hx
  · exact markedBlock_symbols c _ x hx

/-- The logical bytes between START and STOP. -/
theorem logicalBytes_getElem?_inner (c : LineCode) (addr : Addr) {payload : List Byte} {j : Nat}
    (hj : j < payload.length + 4) :
    (logicalBytes c addr payload)[1 + j]? = (addressBytes addr ++ [Config.pad] ++ payload)[j]? := by
  rw [logicalBytes, Nat.add_comm, List.getElem?_cons_succ, List.getElem?_append_left]
  simp only [List.length_append, addressBytes_length, List.length_singleton]
  omega

theorem logicalBytes_getElem?_stop (c : LineCode) (addr : Addr) (payload : List Byte) :
    (logicalBytes c addr payload)[payload.length + 5]? = some c.stopMark := by
  have hlen : (c.startMark :: (addressBytes addr ++ [Config.pad] ++ payload)).length = payload.length + 5 := by
    simp; omega
  rw [logicalBytes, ← List.cons_append, List.getElem?_append_right hlen.le, hlen]
  simp

/-- Payload byte `i` is logical byte `5+i` (40_encoder.md R81). -/
theorem logicalBytes_getElem?_payload (c : LineCode) (addr : Addr) {payload : List Byte} {i : Nat}
    (hi : i < payload.length) : (logicalBytes c addr payload)[5 + i]? = payload[i]? := by
  rw [show 5 + i = 1 + (4 + i) by omega, logicalBytes_getElem?_inner c addr (by omega),
    List.getElem?_append_right (by simp)]
  simp

/-- Block `k` of a frame is that of logical byte `k`, with the mark of its place (30_encoding.md R61 to R63). -/
theorem blockAt_encTransaction (c : LineCode) (addr : Addr) {payload : List Byte} {k : Nat} {b : Byte}
    (h : (logicalBytes c addr payload)[k]? = some b) :
    blockAt (encTransaction c addr payload) k = (encByte c b).set 0 (frameMark c (payload.length + 6) k) := by
  have hk : k < payload.length + 6 := by
    simpa using (List.getElem?_eq_some_iff.mp h).1
  obtain rfl | rfl | ⟨j, rfl, hj⟩ : k = 0 ∨ k = payload.length + 5 ∨ ∃ j, k = 1 + j ∧ j < payload.length + 4 := by
    by_cases hend : k = 0 ∨ k = payload.length + 5
    · omega
    · exact .inr (.inr ⟨k - 1, by omega, by omega⟩)
  · obtain rfl : c.startMark = b := Option.some.inj h
    rw [blockAt_encTransaction_first, frameMark, if_pos (.inl rfl), markedBlock]
  · obtain rfl : c.stopMark = b := Option.some.inj ((logicalBytes_getElem?_stop c addr payload).symm.trans h)
    rw [blockAt_encTransaction_last, frameMark, if_pos (.inr rfl), markedBlock]
  · rw [logicalBytes_getElem?_inner c addr hj] at h
    rw [blockAt_encTransaction_inner c addr h, frameMark, if_neg (by omega), encByte_set_symD]

theorem blockByte_encTransaction {c : LineCode} (hc : c.Valid) (addr : Addr) {payload : List Byte} {k : Nat} {b : Byte}
    (h : (logicalBytes c addr payload)[k]? = some b) : blockByte c (blockAt (encTransaction c addr payload) k) = b := by
  rw [blockAt_encTransaction c addr h, blockByte_encByte_set hc]

theorem encTransaction_wireFrame {c : LineCode} (hc : c.Valid) (addr : Addr) {payload : List Byte} (hp : payload ≠ []) :
    WireFrame c (payload.length + 6) (encTransaction c addr payload) := by
  have hblock : ∀ k < payload.length + 6, ∃ b,
      blockAt (encTransaction c addr payload) k = (encByte c b).set 0 (frameMark c (payload.length + 6) k) :=
    fun k hk => ⟨_, blockAt_encTransaction c addr (List.getElem?_eq_getElem (by simpa using hk))⟩
  exact
    { count := by have := List.length_pos_iff.mpr hp; omega
      length := encTransaction_length c addr payload
      symbols := encTransaction_symbols c addr payload
      last := fun k hk => by obtain ⟨b, hb⟩ := hblock k hk; rw [hb]; rfl
      mark := fun k hk => by obtain ⟨b, hb⟩ := hblock k hk; rw [hb]; rfl
      startByte := blockByte_encTransaction hc addr rfl
      padByte := blockByte_encTransaction hc addr rfl
      stopByte := blockByte_encTransaction hc addr (logicalBytes_getElem?_stop c addr payload) }

/-- The three address bytes, put together again. -/
theorem addressBytes_append (addr : Addr) :
    addr.extractLsb' 16 8 ++ addr.extractLsb' 8 8 ++ addr.extractLsb' 0 8 = addr := by
  rw [BitVec.extractLsb'_append_extractLsb'_eq_extractLsb' (by decide),
    BitVec.extractLsb'_append_extractLsb'_eq_extractLsb' (by decide)]
  exact BitVec.extractLsb'_eq_self

theorem addressBytes_of_append (high mid low : Byte) : addressBytes (high ++ mid ++ low) = [high, mid, low] := by
  have hhigh : (high ++ mid ++ low).extractLsb' 16 8 = high := by
    rw [BitVec.append_assoc]
    exact BitVec.extractLsb'_append_eq_left
  have hmid : (high ++ mid ++ low).extractLsb' 8 8 = mid := by
    apply BitVec.eq_of_getLsbD_eq
    intro i hi
    have hbit : (high ++ mid ++ low).getLsbD (8 + i) = mid.getLsbD i := by
      rw [BitVec.getLsbD_append, BitVec.getLsbD_append]
      simp [hi]
    rw [BitVec.getLsbD_extractLsb', decide_eq_true hi, Bool.true_and]
    exact hbit
  have hlow : (high ++ mid ++ low).extractLsb' 0 8 = low := BitVec.extractLsb'_append_eq_right
  rw [addressBytes, hhigh, hmid, hlow]

/-- The address read from blocks 1 to 3 (30_encoding.md R69). -/
def frameAddress (c : LineCode) (f : List Byte) : Addr :=
  blockByte c (blockAt f 1) ++ blockByte c (blockAt f 2) ++ blockByte c (blockAt f 3)

/-- The payload of `n` bytes read from block 5 on (30_encoding.md R69). -/
def framePayload (c : LineCode) (n : Nat) (f : List Byte) : List Byte :=
  (List.range n).map fun i => blockByte c (blockAt f (5 + i))

@[simp] theorem framePayload_length (c : LineCode) (n : Nat) (f : List Byte) : (framePayload c n f).length = n := by
  simp [framePayload]

theorem framePayload_getElem? (c : LineCode) {n i : Nat} (f : List Byte) (hi : i < n) :
    (framePayload c n f)[i]? = some (blockByte c (blockAt f (5 + i))) := by
  simp [framePayload, hi]

/-- What `decodeFrame` answers to a well-formed frame. -/
theorem WireFrame.decodeFrame_eq {c : LineCode} {m : Nat} {f : List Byte} (h : WireFrame c m f) :
    decodeFrame c f = some (frameAddress c f, framePayload c (m - 6) f) := by
  rw [decodeFrame, if_pos ((isWireFrame_iff c f).mpr ⟨m, h⟩), h.length, Nat.mul_div_cancel m (by decide)]
  rfl

theorem frameAddress_encTransaction {c : LineCode} (hc : c.Valid) (addr : Addr) (payload : List Byte) :
    frameAddress c (encTransaction c addr payload) = addr := by
  rw [frameAddress, blockByte_encTransaction hc addr (k := 1) rfl, blockByte_encTransaction hc addr (k := 2) rfl,
    blockByte_encTransaction hc addr (k := 3) rfl]
  exact addressBytes_append addr

theorem framePayload_encTransaction {c : LineCode} (hc : c.Valid) (addr : Addr) (payload : List Byte) :
    framePayload c payload.length (encTransaction c addr payload) = payload := by
  apply List.ext_getElem (framePayload_length ..)
  intro i hi hi'
  rw [List.getElem_eq_iff, framePayload_getElem? c _ hi', blockByte_encTransaction hc addr]
  rw [logicalBytes_getElem?_payload c addr hi', List.getElem?_eq_getElem hi']

/-- Settles O12: the frame is well formed, and its blocks read as the logical bytes, of which the address and the payload are
parts. -/
theorem frameDecodesBack : Obligations.FrameDecodesBack := by
  intro c hc addr payload hp
  rw [(encTransaction_wireFrame hc addr hp).decodeFrame_eq, Nat.add_sub_cancel, frameAddress_encTransaction hc,
    framePayload_encTransaction hc]

/-! Every well-formed frame is an encoding. -/

/-- The blocks of a well-formed frame read as the logical bytes of its address and payload. -/
theorem WireFrame.logicalBytes_getElem? {c : LineCode} {n k : Nat} {f : List Byte} (h : WireFrame c (n + 6) f)
    (hk : k < n + 6) :
    (logicalBytes c (frameAddress c f) (framePayload c n f))[k]? = some (blockByte c (blockAt f k)) := by
  obtain hhead | ⟨i, rfl, hi⟩ | rfl : k < 5 ∨ (∃ i, k = 5 + i ∧ i < n) ∨ k = n + 5 := by
    by_cases hmid : 5 ≤ k ∧ k < n + 5
    · exact .inr (.inl ⟨k - 5, by omega, by omega⟩)
    · omega
  · rw [logicalBytes, frameAddress, addressBytes_of_append, ← h.startByte, ← h.padByte]
    match k with
    | 0 => rfl
    | 1 => rfl
    | 2 => rfl
    | 3 => rfl
    | 4 => rfl
    | k + 5 => omega
  · rw [logicalBytes_getElem?_payload c _ (by simpa using hi), framePayload_getElem? c f hi]
  · have hstop := logicalBytes_getElem?_stop c (frameAddress c f) (framePayload c n f)
    rw [framePayload_length, ← h.stopByte] at hstop
    exact hstop

/-- A well-formed frame is the encoding of the address and the payload it reads as. -/
theorem WireFrame.eq_encTransaction {c : LineCode} {n : Nat} {f : List Byte} (h : WireFrame c (n + 6) f) :
    f = encTransaction c (frameAddress c f) (framePayload c n f) := by
  refine eq_of_blockAt h.length (by simp) fun k hk => ?_
  rw [blockAt_encTransaction c _ (h.logicalBytes_getElem? hk), framePayload_length]
  exact h.blockAt_eq hk

/-- Settles O13: a well-formed frame is the encoding of what it reads as, and every encoding is well formed. -/
theorem wireFramesAreTheEncodings : Obligations.WireFramesAreTheEncodings := by
  intro c hc f
  rw [isWireFrame_iff]
  constructor
  · rintro ⟨m, h⟩
    have hcount := h.count
    obtain ⟨n, rfl⟩ : ∃ n, m = n + 6 := ⟨m - 6, by omega⟩
    refine ⟨frameAddress c f, framePayload c n f, ?_, h.eq_encTransaction⟩
    rw [← List.length_pos_iff, framePayload_length]
    omega
  · rintro ⟨addr, payload, hp, rfl⟩
    exact ⟨_, encTransaction_wireFrame hc addr hp⟩

/-! A frame in front of a stream. -/

/-- Blocks whose symbol 0 is not `SYM_A` are passed, and the first marked block ends the frame. -/
theorem takeToMarked_blocks {c : LineCode} (hc : c.Valid) (l : List Byte) (b : Byte) (rest : List Byte) {fuel : Nat}
    (hfuel : l.length < fuel) :
    takeToMarked c fuel (l.flatMap (encByte c) ++ (markedBlock c b ++ rest)) =
      some (l.flatMap (encByte c) ++ markedBlock c b, rest) := by
  induction l generalizing fuel with
  | nil =>
    obtain ⟨fuel, rfl⟩ := Nat.exists_eq_add_one_of_ne_zero (Nat.ne_zero_of_lt hfuel)
    have hlen : ¬ (markedBlock c b ++ rest).length < 10 := by simp
    have hmark : (markedBlock c b ++ rest)[0]? = some c.symA := rfl
    rw [List.flatMap_nil, List.nil_append, List.nil_append, takeToMarked, if_neg hlen, if_pos hmark,
      List.take_left' (markedBlock_length c b), List.drop_left' (markedBlock_length c b)]
  | cons x l ih =>
    obtain ⟨fuel, rfl⟩ := Nat.exists_eq_add_one_of_ne_zero (Nat.ne_zero_of_lt hfuel)
    rw [List.flatMap_cons, List.append_assoc]
    have hlen : ¬ (encByte c x ++ (l.flatMap (encByte c) ++ (markedBlock c b ++ rest))).length < 10 := by simp
    have hmark : (encByte c x ++ (l.flatMap (encByte c) ++ (markedBlock c b ++ rest)))[0]? ≠ some c.symA :=
      fun h => hc (Option.some.inj h).symm
    rw [takeToMarked, if_neg hlen, if_neg hmark, List.take_left' (encByte_length c x),
      List.drop_left' (encByte_length c x), ih (Nat.lt_of_succ_lt_succ hfuel), Option.map_some, List.append_assoc]

/-- A stream that begins with a frame is cut after it: the inner blocks carry no mark and the STOP block does. -/
theorem takeToMarked_encTransaction {c : LineCode} (hc : c.Valid) (addr : Addr) (payload rest : List Byte) :
    takeToMarked c (encTransaction c addr payload ++ rest).length ((encTransaction c addr payload ++ rest).drop 10) =
      some (innerBlocks c addr payload ++ markedBlock c c.stopMark, rest) := by
  have hfuel : (addressBytes addr ++ [Config.pad] ++ payload).length < (encTransaction c addr payload ++ rest).length := by
    simp; omega
  have hdrop : (encTransaction c addr payload ++ rest).drop 10 =
      innerBlocks c addr payload ++ (markedBlock c c.stopMark ++ rest) := by
    rw [encTransaction_eq, List.append_assoc, List.append_assoc, List.drop_left' (markedBlock_length c _)]
  rw [hdrop]
  exact takeToMarked_blocks hc _ _ rest hfuel

/-- Settles O14: the first marked block after block 0 is the frame's STOP block, and the frame up to it decodes back. -/
theorem streamReadsFrameByFrame : Obligations.StreamReadsFrameByFrame := by
  intro c hc addr payload rest hp
  have hframe : (encTransaction c addr payload ++ rest).take 10 ++ (innerBlocks c addr payload ++ markedBlock c c.stopMark) =
      encTransaction c addr payload := by
    rw [encTransaction_eq, List.append_assoc, List.append_assoc, List.take_left' (markedBlock_length c _),
      List.append_assoc]
  rw [readFrame, takeToMarked_encTransaction hc]
  simp only [hframe, frameDecodesBack c hc addr payload hp, Option.map_some]

/-! Counting the asserted symbols (40_encoder.md R84 (f)). -/

/-- The number of `SYM_A` among the data symbols of a byte. -/
theorem count_dataSymbols {c : LineCode} (hc : c.Valid) (b : Byte) :
    ((List.range 8).map fun i => sym c (b.getLsbD (7 - i))).count c.symA = Safety.ones b := by
  have hrev : (List.range 8).map (7 - ·) = (List.range 8).reverse := by decide
  calc ((List.range 8).map fun i => sym c (b.getLsbD (7 - i))).count c.symA
    _ = (List.range 8).countP fun i => b.getLsbD (7 - i) := by
      rw [List.count, List.countP_map]
      refine List.countP_congr fun i _ => ?_
      simp [sym_eq_symA hc]
    _ = ((List.range 8).map (7 - ·)).countP fun i => b.getLsbD i := by
      rw [List.countP_map]
      rfl
    _ = Safety.ones b := by
      rw [hrev, List.countP_reverse, Safety.ones]

theorem count_encByte {c : LineCode} (hc : c.Valid) (b : Byte) : (encByte c b).count c.symA = Safety.ones b := by
  rw [encByte_eq_framed, List.count_cons_of_ne hc.symm, List.count_append, count_dataSymbols hc,
    List.count_singleton, if_neg (by simpa using hc.symm), Nat.add_zero]

/-- The mark adds one `SYM_A` to a block. -/
theorem count_markedBlock {c : LineCode} (hc : c.Valid) (b : Byte) :
    (markedBlock c b).count c.symA = Safety.ones b + 1 := by
  have htail : (encByte c b).tail.count c.symA = Safety.ones b := by
    rw [← count_encByte hc b]
    exact (List.count_cons_of_ne hc.symm).symm
  rw [← htail]
  exact List.count_cons_self

theorem count_flatMap_encByte {c : LineCode} (hc : c.Valid) (l : List Byte) :
    (l.flatMap (encByte c)).count c.symA = (l.map Safety.ones).sum := by
  simp only [List.count_flatMap, Function.comp_def, count_encByte hc]

/-- Settles O15: the symbols and the counts of the marked blocks and of the inner ones, the pad having no 1 bit. -/
theorem frameAlphabetAndCount : Obligations.FrameAlphabetAndCount := by
  refine fun c hc addr payload => ⟨encTransaction_symbols c addr payload, ?_⟩
  have hpad : Safety.ones Config.pad = 0 := by decide
  simp only [encTransaction_eq, innerBlocks, List.count_append, count_markedBlock hc, count_flatMap_encByte hc,
    List.map_append, List.sum_append, List.map_cons, List.map_nil, List.sum_cons, List.sum_nil, hpad]
  omega

end Sys2Proof.Machine
end

section
/-! SUPPORT. The encoder's laws (40_encoder.md R82 to R84) and its two operations (R80, R81): the block as a one-to-one code, the
frame of a longer payload, the table, and the one way in which `ENCB` or `ENCT` ends, whatever the state. -/

namespace Sys2Proof.Machine

/-! The block and the frame. -/

theorem blockByte_encByte {c : LineCode} (hc : c.Valid) : Function.LeftInverse (blockByte c) (encByte c) :=
  fun b => blockByte_encByte_set hc b c.symD

/-- Settles O10: the byte can be read back from its block. -/
theorem blockEncodingInjective : Obligations.BlockEncodingInjective :=
  fun _ hc _ _ h => (blockByte_encByte hc).injective h

theorem innerBlocks_append (c : LineCode) (addr : Addr) (p q : List Byte) :
    innerBlocks c addr (p ++ q) = innerBlocks c addr p ++ q.flatMap (encByte c) := by
  rw [innerBlocks, ← List.append_assoc, List.flatMap_append, innerBlocks]

/-- Before the place of the STOP block of `p`, the frame of `p` followed by more bytes holds nothing of what follows. -/
theorem take_encTransaction_append (c : LineCode) (addr : Addr) (p q : List Byte) :
    (encTransaction c addr (p ++ q)).take ((p.length + 5) * 10) =
      markedBlock c c.startMark ++ innerBlocks c addr p := by
  have hlen : (markedBlock c c.startMark ++ innerBlocks c addr p).length = (p.length + 5) * 10 := by
    rw [List.length_append, markedBlock_length, innerBlocks_length]
    omega
  rw [encTransaction_eq, innerBlocks_append, ← List.append_assoc, List.append_assoc _ (q.flatMap _),
    List.take_left' hlen]

/-- Settles O16: both frames begin with the START block and the inner blocks of `p`. -/
theorem longerPayloadKeepsPrefix : Obligations.LongerPayloadKeepsPrefix := fun c addr p q =>
  calc (encTransaction c addr (p ++ q)).take ((p.length + 5) * 10)
    _ = markedBlock c c.startMark ++ innerBlocks c addr p := take_encTransaction_append c addr p q
    _ = (encTransaction c addr (p ++ [])).take ((p.length + 5) * 10) := (take_encTransaction_append c addr p []).symm
    _ = (encTransaction c addr p).take ((p.length + 5) * 10) := by rw [List.append_nil]

/-! The table. -/

theorem encTable_length (c : LineCode) : (encTable c).length = 256 := by
  rw [encTable, List.length_map, List.length_range]

theorem encTable_getD (c : LineCode) (b : Byte) : (encTable c).getD b.toNat [] = encByte c b := by
  rw [List.getD_eq_getElem?_getD, encTable_getElem?, Option.getD_some]

theorem encTransactionByTable_encTable (c : LineCode) (addr : Addr) (payload : List Byte) :
    encTransactionByTable (encTable c) c addr payload = encTransaction c addr payload := by
  simp only [encTransactionByTable, encTransaction, encTable_getD]

/-- Settles O17: a look-up gives the block of the byte, so the frames have the same blocks. -/
theorem tableEncoderAgrees : Obligations.TableEncoderAgrees :=
  fun c => ⟨encTable_length c, encTable_getElem? c, encTransactionByTable_encTable c⟩

/-! The operations. -/

theorem payloadFault_nil : payloadFault [] = some .emptyPayload := rfl

theorem payloadFault_of_tooLong {payload : List Byte} (h : Config.maxPayload < payload.length) :
    payloadFault payload = some .payloadTooLong := by
  rw [payloadFault, if_neg (by omega), if_pos h]

theorem encodeFrame_of_fault (addr : Addr) {payload : List Byte} {f : FaultName} (h : payloadFault payload = some f)
    (s : State) : encodeFrame addr payload s = s.raise f := by
  rw [encodeFrame, h]

theorem encodeFrame_of_legal (addr : Addr) {payload : List Byte} (h : payloadFault payload = none) (s : State) :
    encodeFrame addr payload s = (s.setRes (encTransaction Config.line addr payload)).finish := by
  rw [encodeFrame, h]

/-- Settles O18: `ENCB` latches its byte, writes the block to `RES` and is done. -/
theorem encbWritesOnlyRes : Obligations.EncbWritesOnlyRes := exec_encb

/-- Settles O19, one range of the payload's length after the other. -/
theorem enctWritesResOrRefuses : Obligations.EnctWritesResOrRefuses := by
  rintro addr payload s opr rfl
  refine ⟨?_, fun hlong => ?_, fun hpos hmax => ?_⟩
  · rintro rfl
    rw [exec_enct, encodeFrame_of_fault addr payloadFault_nil]
    rfl
  · rw [exec_enct, encodeFrame_of_fault addr (payloadFault_of_tooLong hlong)]
    rfl
  · have hlegal : payloadFault payload = none :=
      payloadFault_eq_none.mpr ⟨List.length_pos_iff.mp hpos, hmax⟩
    rw [exec_enct, encodeFrame_of_legal addr hlegal]
    rfl

/-- The operations of the Waveform Encoder (40_encoder.md R80, R81). -/
def IsEncoder (i : Instr) : Prop := (∃ b, i = .encb b) ∨ ∃ addr payload, i = .enct addr payload

/-- An encoder operation ends in every state with the same refusal, or in every state with the same `RES`: which of the two,
and what is written, its operands alone decide (40_encoder.md R83). -/
theorem IsEncoder.effect_uniform {i : Instr} (hi : IsEncoder i) :
    (∃ f, ∀ s, effect i s = s.raise f) ∨ (∃ bytes, ∀ s, effect i s = (s.setRes bytes).finish) := by
  obtain ⟨b, rfl⟩ | ⟨addr, payload, rfl⟩ := hi
  · exact .inr ⟨encByte Config.line b, fun _ => rfl⟩
  · cases h : payloadFault payload with
    | some f => exact .inl ⟨f, encodeFrame_of_fault addr h⟩
    | none => exact .inr ⟨encTransaction Config.line addr payload, encodeFrame_of_legal addr h⟩

/-- Settles O31: both runs end in the same way, and neither way of ending touches the transport or the environment. -/
theorem encodersReadNoState : Obligations.EncodersReadNoState := by
  intro s s' t t' i hi h h'
  obtain rfl := eq_effect_of_exec h
  obtain rfl := eq_effect_of_exec h'
  obtain ⟨f, heffect⟩ | ⟨bytes, heffect⟩ := IsEncoder.effect_uniform hi <;> rw [heffect, heffect]
  · refine ⟨rfl, fun hdone => ?_, ⟨rfl, rfl, rfl, rfl, rfl, rfl⟩, rfl⟩
    cases hdone
  · exact ⟨rfl, fun _ => rfl, ⟨rfl, rfl, rfl, rfl, rfl, rfl⟩, rfl⟩

end Sys2Proof.Machine
end

section
/-! SUPPORT. A failed session stays silent (41_transport.md R98, R100 (c)). -/

namespace Sys2Proof.Safety

open Sys2Proof.Machine

/-- In `t` the session that has failed in `s` is still failed, with nothing pending, and the line and the count of calls stand. -/
structure SilentSince (s t : State) : Prop where
  txErr : t.txErr = true
  txBuf : t.txBuf = []
  txLine : t.txLine = s.txLine
  txCalls : t.txCalls = s.txCalls

namespace SilentSince

variable {s t u : State}

theorem refl (he : s.txErr = true) (hb : s.txBuf = []) : SilentSince s s := ⟨he, hb, rfl, rfl⟩

theorem trans (h : SilentSince s t) (h' : SilentSince t u) : SilentSince s u :=
  ⟨h'.txErr, h'.txBuf, h'.txLine.trans h.txLine, h'.txCalls.trans h.txCalls⟩

end SilentSince

/-- After a failure every move but the opening of a session keeps the silence: a write or a flush is not begun, the drain agent
does not act, and a close finds no byte to let out. -/
theorem TransportMove.silent {s t : State} (m : TransportMove s t) (he : s.txErr = true) (hb : s.txBuf = [])
    (hno : t.hist ≠ s.hist ++ [.opened]) : SilentSince s t := by
  cases m with
  | kept h => exact ⟨h.txErr.trans he, h.txBuf.trans hb, h.txLine, h.txCalls⟩
  | drain =>
    rw [drainMoment_of_failed he]
    exact .refl he hb
  | accept _ _ hok => exact absurd (he.symm.trans hok) nofun
  | failWrite _ _ hok => exact absurd (he.symm.trans hok) nofun
  | flush _ hok => exact absurd (he.symm.trans hok) nofun
  | failFlush _ hok => exact absurd (he.symm.trans hok) nofun
  | acquire _ => exact absurd rfl hno
  | release _ => exact ⟨he, rfl, by simp [hb], rfl⟩
  | wait _ => exact ⟨he, hb, rfl, rfl⟩

theorem TransportMoves.silent {s t : State} (m : TransportMoves s t) (he : s.txErr = true) (hb : s.txBuf = [])
    {new : List Event} (hhist : t.hist = s.hist ++ new) (hno : .opened ∉ new) : SilentSince s t := by
  induction m generalizing new with
  | refl => exact .refl he hb
  | @tail u t hmoves hmove ih =>
    obtain ⟨begun, hbegun⟩ := TransportMoves.adds hmoves
    obtain ⟨more, hmore⟩ := hmove.adds
    have hnew : new = begun ++ more := by
      rw [hmore.hist, hbegun.hist, List.append_assoc] at hhist
      exact (List.append_cancel_left hhist).symm
    rw [hnew, List.mem_append, not_or] at hno
    have hu := ih hbegun.hist hno.1
    refine hu.trans (hmove.silent hu.txErr hu.txBuf fun hopens => hno.2 ?_)
    have : more = [.opened] := List.append_cancel_left (hmore.hist.symm.trans hopens)
    simp [this]

/-- Settles O42: the invariant says that nothing is pending in the failed session, and the moves of a run keep it silent. -/
theorem failedSessionSendsNothing : Obligations.FailedSessionSendsNothing := by
  intro k s t new hinv he hrun hhist hno
  have h := (run_moves k s t hrun).silent he (hinv.failed_buf he) hhist hno
  exact ⟨h.txLine, h.txErr, h.txCalls⟩

end Sys2Proof.Safety
end

section
/-! SUPPORT. The operations of the transport, one equation for each condition it can be in and each answer of the environment
(41_transport.md R91 to R95). -/

namespace Sys2Proof.Machine

variable {s : State}

theorem exec_of_effect {i : Instr} {t : State} (h : effect i (s.latch i.opCode i.argField i.operands) = t) :
    exec i s = .next t :=
  h ▸ exec_eq_effect i s

/-! `TXO` -/

theorem openTransport_of_open (ho : s.txOpen = true) : openTransport s = s.raise .alreadyOpen := if_pos ho

theorem openTransport_of_closed (ho : s.txOpen = false) : openTransport s = s.beginSession.finish :=
  if_neg (by simp [ho])

/-! `TXW` -/

theorem writeBytes_of_closed (bytes : List Byte) (ho : s.txOpen = false) : writeBytes bytes s = s.raise .notOpen :=
  if_pos ho

theorem writeBytes_of_failed (bytes : List Byte) (ho : s.txOpen = true) (he : s.txErr = true) :
    writeBytes bytes s = s.raise .sessionFailed := by
  simp [writeBytes, ho, he]

theorem writeBytes_of_ok (bytes : List Byte) (ho : s.txOpen = true) (he : s.txErr = false) (hk : s.env.okNow = true) :
    writeBytes bytes s = (s.countCall.spendOk.accept bytes).finish := by
  simp [writeBytes, ho, he, hk]

theorem writeBytes_of_notOk (bytes : List Byte) (ho : s.txOpen = true) (he : s.txErr = false)
    (hk : s.env.okNow = false) : writeBytes bytes s = s.countCall.spendOk.fail .write (s.txBuf ++ bytes) := by
  simp [writeBytes, ho, he, hk]

/-! `TXF` -/

theorem flushBytes_of_closed (ho : s.txOpen = false) : flushBytes s = s.raise .notOpen := if_pos ho

theorem flushBytes_of_failed (ho : s.txOpen = true) (he : s.txErr = true) : flushBytes s = s.raise .sessionFailed := by
  simp [flushBytes, ho, he]

theorem flushBytes_of_ok (ho : s.txOpen = true) (he : s.txErr = false) (hk : s.env.okNow = true) :
    flushBytes s = s.spendOk.drainAll.finish := by
  simp [flushBytes, ho, he, hk]

theorem flushBytes_of_notOk (ho : s.txOpen = true) (he : s.txErr = false) (hk : s.env.okNow = false) :
    flushBytes s = s.spendOk.fail .flush s.txBuf := by
  simp [flushBytes, ho, he, hk]

/-! `TXC` -/

theorem closeTransport_of_closed (ho : s.txOpen = false) : closeTransport s = s.raise .notOpen := if_pos ho

theorem closeTransport_of_open (ho : s.txOpen = true) : closeTransport s = s.release.finish := if_neg (by simp [ho])

/-! `SEND` -/

theorem sendFrame_of_fault (addr : Addr) {payload : List Byte} {f : FaultName} (hp : payloadFault payload = some f) :
    sendFrame addr payload s = s.raise f := by
  rw [sendFrame, encodeFrame_of_fault addr hp, andThen_raised (f := f) _ rfl, andThen_raised (f := f) _ rfl]

/-- The state of a `SEND` whose operand check has passed: `RES` is the frame (41_transport.md R95). -/
def State.encoded (s : State) (addr : Addr) (payload : List Byte) : State :=
  (s.setRes (encTransaction Config.line addr payload)).finish

/-- The state of a `SEND` whose frame the transport has accepted (41_transport.md R95). -/
def State.frameAccepted (s : State) (addr : Addr) (payload : List Byte) : State :=
  ((s.encoded addr payload).countCall.spendOk.accept (encTransaction Config.line addr payload)).finish

section Legal

variable {addr : Addr} {payload : List Byte} (hp : payloadFault payload = none)
include hp

/-- With an admitted payload `RES` is the frame before the transport is consulted (95_test_vectors.md X11). -/
theorem sendFrame_of_legal :
    sendFrame addr payload s =
      (writeBytes (encTransaction Config.line addr payload) (s.encoded addr payload)).andThen flushBytes := by
  rw [sendFrame, encodeFrame_of_legal addr hp, andThen_done _ (finish_result _)]
  rfl

theorem sendFrame_of_closed (ho : s.txOpen = false) :
    sendFrame addr payload s = (s.encoded addr payload).raise .notOpen := by
  rw [sendFrame_of_legal hp, writeBytes_of_closed (s := s.encoded addr payload) _ ho, andThen_raised _ (raise_result _ _)]

theorem sendFrame_of_failed (ho : s.txOpen = true) (he : s.txErr = true) :
    sendFrame addr payload s = (s.encoded addr payload).raise .sessionFailed := by
  rw [sendFrame_of_legal hp, writeBytes_of_failed (s := s.encoded addr payload) _ ho he,
    andThen_raised _ (raise_result _ _)]

theorem sendFrame_of_write_notOk (ho : s.txOpen = true) (he : s.txErr = false) (hk : s.env.okNow = false) :
    sendFrame addr payload s =
      (s.encoded addr payload).countCall.spendOk.fail .write (s.txBuf ++ encTransaction Config.line addr payload) := by
  rw [sendFrame_of_legal hp, writeBytes_of_notOk (s := s.encoded addr payload) _ ho he hk,
    andThen_raised _ (fail_result _ _ _)]
  rfl

/-- An accepted write of the frame is followed by the flush. -/
theorem sendFrame_of_write_ok (ho : s.txOpen = true) (he : s.txErr = false) (hk : s.env.okNow = true) :
    sendFrame addr payload s = flushBytes (s.frameAccepted addr payload) := by
  rw [sendFrame_of_legal hp, writeBytes_of_ok (s := s.encoded addr payload) _ ho he hk, andThen_done _ (finish_result _)]
  rfl

theorem sendFrame_of_flush_notOk (ho : s.txOpen = true) (he : s.txErr = false) (hk : s.env.okNow = true)
    (hk' : s.env.afterOk.okNow = false) :
    sendFrame addr payload s =
      (s.frameAccepted addr payload).spendOk.fail .flush (s.txBuf ++ encTransaction Config.line addr payload) :=
  (sendFrame_of_write_ok hp ho he hk).trans (flushBytes_of_notOk ho he hk')

theorem sendFrame_of_ok (ho : s.txOpen = true) (he : s.txErr = false) (hk : s.env.okNow = true)
    (hk' : s.env.afterOk.okNow = true) :
    sendFrame addr payload s = (s.frameAccepted addr payload).spendOk.drainAll.finish :=
  (sendFrame_of_write_ok hp ho he hk).trans (flushBytes_of_ok ho he hk')

end Legal

theorem payloadFault_of_length {payload : List Byte} (hpos : 1 ≤ payload.length)
    (hmax : payload.length ≤ Config.maxPayload) : payloadFault payload = none :=
  payloadFault_eq_none.mpr ⟨List.length_pos_iff.mp hpos, hmax⟩

end Sys2Proof.Machine
end

section
/-! SUPPORT. The transport operations, `SEND` and `DLY` as whole next states (41_transport.md R91 to R95, R97, R99). -/

namespace Sys2Proof.Machine

/-- Settles O20. -/
theorem txoOpensOrRefuses : Obligations.TxoOpensOrRefuses := by
  rintro s opr rfl
  exact ⟨fun ho => exec_of_effect (openTransport_of_open ho), fun ho => exec_of_effect (openTransport_of_closed ho)⟩

/-- Settles O21; the prefix that leaves at a failure is the environment's next answer. -/
theorem txwAcceptsFailsOrRefuses : Obligations.TxwAcceptsFailsOrRefuses := by
  rintro bytes s opr rfl
  exact ⟨fun ho => exec_of_effect (writeBytes_of_closed bytes ho),
    fun ho he => exec_of_effect (writeBytes_of_failed bytes ho he),
    fun ho he hk => exec_of_effect (writeBytes_of_ok bytes ho he hk),
    fun ho he hk => ⟨_, List.take_prefix s.env.afterOk.prefixNow _,
      exec_of_effect (writeBytes_of_notOk bytes ho he hk)⟩⟩

/-- Settles O22; the prefix that leaves at a failure is the environment's next answer. -/
theorem txfDrainsFailsOrRefuses : Obligations.TxfDrainsFailsOrRefuses := by
  rintro s opr rfl
  exact ⟨fun ho => exec_of_effect (flushBytes_of_closed ho),
    fun ho he => exec_of_effect (flushBytes_of_failed ho he),
    fun ho he hk => exec_of_effect (flushBytes_of_ok ho he hk),
    fun ho he hk => ⟨_, List.take_prefix s.env.afterOk.prefixNow _,
      exec_of_effect (flushBytes_of_notOk ho he hk)⟩⟩

/-- Settles O23; the prefix that leaves is the environment's next answer. -/
theorem txcReleasesOrRefuses : Obligations.TxcReleasesOrRefuses := by
  rintro s opr rfl
  exact ⟨fun ho => exec_of_effect (closeTransport_of_closed ho),
    fun ho => ⟨_, List.take_prefix s.env.prefixNow _, exec_of_effect (closeTransport_of_open ho)⟩⟩

/-- Settles O24: the operand check first, then the transport's refusals with `RES` written. -/
theorem sendRefusals : Obligations.SendRefusals := by
  rintro addr payload s opr rfl
  refine ⟨?_, fun hlong => ?_, fun hpos hmax ho => ?_, fun hpos hmax ho he => ?_⟩
  · rintro rfl
    exact exec_of_effect (sendFrame_of_fault addr payloadFault_nil)
  · exact exec_of_effect (sendFrame_of_fault addr (payloadFault_of_tooLong hlong))
  · exact exec_of_effect (sendFrame_of_closed (payloadFault_of_length hpos hmax) ho)
  · exact exec_of_effect (sendFrame_of_failed (payloadFault_of_length hpos hmax) ho he)

/-- Settles O25: one answer of the environment for the write and, after an accepted write, one for the flush. -/
theorem sendPutsOneFrame : Obligations.SendPutsOneFrame := by
  rintro addr payload frame s opr rfl rfl hpos hmax ho he
  have hp := payloadFault_of_length hpos hmax
  refine ⟨fun hk hk' => ?_, fun hk => ?_, fun hk hk' => ?_⟩
  · rw [List.append_assoc s.txLine, List.append_cons s.hist]
    exact exec_of_effect (sendFrame_of_ok hp ho he hk hk')
  · exact ⟨_, List.take_prefix s.env.afterOk.prefixNow _,
      exec_of_effect (sendFrame_of_write_notOk hp ho he hk)⟩
  · refine ⟨_, List.take_prefix s.env.afterOk.afterOk.prefixNow _, ?_⟩
    rw [List.append_cons s.hist]
    exact exec_of_effect (sendFrame_of_flush_notOk hp ho he hk hk')

/-- Settles O26: `DLY` consults nothing. -/
theorem dlyRecordsTheWait : Obligations.DlyRecordsTheWait := exec_dly

end Sys2Proof.Machine
end

section
/-! SUPPORT. The choices of the environment (41_transport.md R92 to R97): which answers lead to which outcome. -/

namespace Sys2Proof.Machine

/-- With nothing presented the block waits (60_exceptions.md R166). -/
theorem step_of_idle {s : State} (h : s.port = []) : step s = .next s.drainMoment :=
  step_of_awaiting (by rw [h, decodeBeats_nil])

/-- Settles O34, from what a moment of the drain agent can do. -/
theorem idleStepOnlyDrains : Obligations.IdleStepOnlyDrains := by
  intro s hport
  rw [step_of_idle hport]
  rcases drainMoment_cases s with h | ⟨ho, he, -, h⟩
  · exact ⟨[], s.txBuf, s.env, rfl, fun _ => rfl, by rw [h, List.append_nil]⟩
  · refine ⟨s.txBuf.take s.env.drainNow, s.txBuf.drop s.env.drainNow, s.env.afterDrain,
      (List.take_append_drop _ _).symm, ?_, by rw [h]⟩
    simp [ho, he]

/-- An environment that answers the next writes and flushes with `oks` and lets `k` bytes out at the next failure, close or
drain. -/
def answering (oks : List Bool) (k : Nat) : Env := { oks := oks, prefixes := [k], drains := [k], drawn := 0 }

/-! What a failure, a close and a drain moment let out is the environment's answer, and every prefix is one. -/

theorem fail_txLine_of_prefix {s : State} {kind : FailKind} {q pending : List Byte} {l : List Nat}
    (hl : s.env.prefixes = q.length :: l) (hq : q <+: pending) : (s.fail kind pending).txLine = s.txLine ++ q := by
  rw [fail_txLine, prefixNow_of_cons hl, ← List.prefix_iff_eq_take.mp hq]

theorem release_txLine_of_prefix {s : State} {q : List Byte} {l : List Nat}
    (hl : s.env.prefixes = q.length :: l) (hq : q <+: s.txBuf) : s.release.txLine = s.txLine ++ q := by
  rw [release_txLine, prefixNow_of_cons hl, ← List.prefix_iff_eq_take.mp hq]

theorem drainMoment_of_pending {s : State} (ho : s.txOpen = true) (he : s.txErr = false) (hb : s.txBuf ≠ []) :
    s.drainMoment = { s with
      txLine := s.txLine ++ s.txBuf.take s.env.drainNow
      txBuf := s.txBuf.drop s.env.drainNow
      env := s.env.afterDrain } :=
  if_pos (by simp [ho, he, hb])

/-- Some answer drains exactly the first part of the buffer; of an empty buffer the drain agent is not asked. -/
theorem drainMoment_admits {s : State} (ho : s.txOpen = true) (he : s.txErr = false) {q rest : List Byte}
    (hb : s.txBuf = q ++ rest) :
    ∃ env env',
      State.drainMoment { s with env := env } = { s with txLine := s.txLine ++ q, txBuf := rest, env := env' } := by
  rcases eq_or_ne s.txBuf [] with hempty | hpending
  · obtain ⟨rfl, rfl⟩ := List.append_eq_nil_iff.mp (hb.symm.trans hempty)
    refine ⟨s.env, s.env, (drainMoment_of_empty hempty).trans ?_⟩
    rw [List.append_nil, ← hempty]
  · refine ⟨answering [] q.length, (answering [] q.length).afterDrain,
      (drainMoment_of_pending (s := { s with env := answering [] q.length }) ho he hpending).trans ?_⟩
    simp [hb, answering]

/-- Settles O33: the answers that lead to each outcome, and to each prefix by its length. -/
theorem everyEnvironmentChoiceIsAdmitted : Obligations.EveryEnvironmentChoiceIsAdmitted := by
  intro s bytes q ho he
  refine ⟨?_, fun hq => ?_, ?_, fun hq => ?_, fun hq => ?_, fun rest hb => ?_, ?_, fun rest i beats hb hd => ?_⟩
  · exact ⟨answering [true] 0, _, exec_of_effect (writeBytes_of_ok bytes ho he rfl), rfl⟩
  · exact ⟨answering [false] q.length, _, exec_of_effect (writeBytes_of_notOk bytes ho he rfl), rfl,
      fail_txLine_of_prefix rfl hq⟩
  · exact ⟨answering [true] 0, _, exec_of_effect (flushBytes_of_ok ho he rfl), rfl⟩
  · exact ⟨answering [false] q.length, _, exec_of_effect (flushBytes_of_notOk ho he rfl), rfl,
      fail_txLine_of_prefix rfl hq⟩
  · exact ⟨answering [] q.length, _, exec_of_effect (closeTransport_of_open ho), rfl, release_txLine_of_prefix rfl hq⟩
  · obtain ⟨env, env', hdrain⟩ := drainMoment_admits (s := { s with port := [] }) ho he hb
    exact ⟨env, _, (step_of_idle rfl).trans (congrArg _ hdrain), rfl, rfl⟩
  · rintro addr payload frame rfl hpos hmax
    have hp := payloadFault_of_length hpos hmax
    refine ⟨⟨answering [true, true] 0, _, exec_of_effect (sendFrame_of_ok hp ho he rfl rfl), rfl⟩,
      fun out hout => ⟨?_, ?_⟩⟩
    · exact ⟨answering [false] out.length, _, exec_of_effect (sendFrame_of_write_notOk hp ho he rfl), rfl,
        fail_txLine_of_prefix rfl hout, rfl⟩
    · exact ⟨answering [true, false] out.length, _, exec_of_effect (sendFrame_of_flush_notOk hp ho he rfl rfl), rfl,
        fail_txLine_of_prefix rfl hout, List.append_assoc _ _ _⟩
  · obtain ⟨env, env', hdrain⟩ := drainMoment_admits ho he hb
    exact ⟨env, env', (step_of_instr (s := { s with env := env }) hd).trans (by rw [hdrain]; rfl)⟩

end Sys2Proof.Machine
end

section
/-! SUPPORT. Operations of the command layer on a transport that answers well, and the first that does not
(41_transport.md R97, R100 (b), (c)). -/

namespace Sys2Proof.Safety

open Sys2Proof.Machine

/-- From `s` to `t` the operations have been carried out on the idle transport: their frames are on the line, their calls are
counted, their events are in the history, and no fault is recorded. -/
structure CarriedOut (ops : List Instr) (s t : State) : Prop where
  ready : ReadyTransport t
  line : t.txLine = s.txLine ++ ops.flatMap opFrame
  calls : t.txCalls = s.txCalls + callCount ops
  shapes : t.hist.map shape = s.hist.map shape ++ shapes ops
  fault : t.fault = s.fault

namespace CarriedOut

variable {s t u : State} {ops more : List Instr}

theorem refl (h : ReadyTransport s) : CarriedOut [] s s := ⟨h, by simp, by simp [callCount], by simp, rfl⟩

theorem trans (h : CarriedOut ops s t) (h' : CarriedOut more t u) : CarriedOut (ops ++ more) s u where
  ready := h'.ready
  line := by rw [h'.line, h.line, List.flatMap_append, List.append_assoc]
  calls := by rw [h'.calls, h.calls, callCount_append, Nat.add_assoc]
  shapes := by rw [h'.shapes, h.shapes, shapes_append, List.append_assoc]
  fault := h'.fault.trans h.fault

end CarriedOut

/-- On an idle transport an operation is issued with no byte drained before it. -/
theorem ReadyTransport.hostIssue_eq {s : State} (h : ReadyTransport s) (i : Instr) : hostIssue i s = exec i s := by
  rw [hostIssue, drainMoment_of_empty h.txBuf]

@[simp] theorem callCount_nil : callCount [] = 0 := rfl

@[simp] theorem callCount_cons (i : Instr) (ops : List Instr) : callCount (i :: ops) = opCalls i + callCount ops := by
  simp [callCount]

/-- An operation whose write and flush are answered well is carried out. -/
theorem hostIssue_carriedOut {i : Instr} {s : State} {more : List Bool} (hi : LayerOp i) (hr : ReadyTransport s)
    (hoks : s.env.oks = List.replicate (2 * opCalls i) true ++ more) :
    ∃ t, hostIssue i s = .next t ∧ t.result = .done ∧ CarriedOut [i] s t ∧ t.env.oks = more := by
  rw [hr.hostIssue_eq]
  obtain ⟨ho, he, hb⟩ := hr
  cases i with
  | send addr payload =>
    obtain ⟨hne, hmax⟩ := hi
    have hgood : s.env.oks = true :: true :: more := hoks
    obtain ⟨hsent, -, -⟩ := sendPutsOneFrame addr payload _ s _ rfl rfl (List.length_pos_iff.mpr hne) hmax ho he
    have hnext : s.env.afterOk.oks = true :: more := by rw [afterOk_oks, hgood, List.tail_cons]
    refine ⟨_, hsent (okNow_of_cons hgood) (okNow_of_cons hnext), rfl, ⟨⟨ho, he, rfl⟩, ?_, rfl, ?_, rfl⟩, ?_⟩
    · simp [hb, opFrame]
    · simp [shape, opShapes]
    · rw [afterOk_oks, hnext, List.tail_cons]
  | dly ms =>
    refine ⟨_, dlyRecordsTheWait ms s, rfl, ⟨⟨ho, he, hb⟩, ?_, rfl, ?_, rfl⟩, hoks⟩
    · simp [opFrame]
    · simp [shape, opShapes]
  | encb _ => exact hi.elim
  | enct _ _ => exact hi.elim
  | txw _ => exact hi.elim
  | txf => exact hi.elim
  | txo => exact hi.elim
  | txc => exact hi.elim

/-- With enough good answers a sequence of operations is carried out, and whatever follows it is issued from there. -/
theorem issueAll_carriedOut {ops : List Instr} {s : State} {more : List Bool} (hops : ∀ i ∈ ops, LayerOp i)
    (hr : ReadyTransport s) (hoks : s.env.oks = List.replicate (2 * callCount ops) true ++ more) :
    ∃ t, (∀ rest, issueAll (ops ++ rest) s = issueAll rest t) ∧ CarriedOut ops s t ∧ t.env.oks = more := by
  induction ops generalizing s with
  | nil => exact ⟨s, fun _ => rfl, .refl hr, hoks⟩
  | cons i ops ih =>
    obtain ⟨hi, hops⟩ := List.forall_mem_cons.mp hops
    rw [callCount_cons, Nat.mul_add, List.replicate_add, List.append_assoc] at hoks
    obtain ⟨u, hissue, hdone, hu, hoks⟩ := hostIssue_carriedOut hi hr hoks
    obtain ⟨t, hrest, ht, hoks⟩ := ih hops hu.ready hoks
    exact ⟨t, fun rest => (issueAll_done hissue hdone).trans (hrest rest), hu.trans ht, hoks⟩

/-- Settles O46. -/
theorem faultFreeOperationsReachTheLine : Obligations.FaultFreeOperationsReachTheLine := by
  intro ops s more hops hr hoks
  obtain ⟨t, hrun, ht, hmore⟩ := issueAll_carriedOut hops hr hoks
  exact ⟨t, by simpa using hrun [], ht.ready, ht.line, ht.calls, ht.shapes, ht.fault, hmore⟩

/-- Settles O47: the operations before are carried out, and then the write of the frame fails and ends the run. -/
theorem failingWriteCutsTheLine : Obligations.FailingWriteCutsTheLine := by
  intro before after addr payload s more hbefore hsend hr hoks
  obtain ⟨u, hrun, hu, hoks⟩ := issueAll_carriedOut hbefore hr hoks
  obtain ⟨ho, he, hb⟩ := hu.ready
  obtain ⟨hne, hmax⟩ := hsend
  obtain ⟨-, hfails, -⟩ := sendPutsOneFrame addr payload _ u _ rfl rfl (List.length_pos_iff.mpr hne) hmax ho he
  obtain ⟨q, hq, hexec⟩ := hfails (okNow_of_cons hoks)
  refine ⟨_, q, (hrun _).trans (issueAll_raised ((hu.ready.hostIssue_eq _).trans hexec) rfl), ?_, ?_, rfl, rfl, ho, rfl,
    ?_, ?_⟩
  · simpa [hb] using hq
  · rw [hu.line]
  · rw [hu.calls]
  · simp [hu.calls]

end Sys2Proof.Safety
end

section
/-! SUPPORT. The write calls and line bytes of the pseudo-instructions (42_command_layer.md R111 to R122). -/

namespace Sys2Proof.Machine

/-- When nothing fails the operations make this many write calls and put this many bytes on the line. -/
def Sized (ops : List Instr) (calls bytes : Nat) : Prop :=
  callCount ops = calls ∧ (ops.flatMap opFrame).length = bytes

theorem Sized.append {l m : List Instr} {i j k n : Nat} (hl : Sized l i j) (hm : Sized m k n) :
    Sized (l ++ m) (i + k) (j + n) := by
  obtain ⟨hlc, hlb⟩ := hl
  obtain ⟨hmc, hmb⟩ := hm
  exact ⟨by rw [callCount_append, hlc, hmc], by rw [List.flatMap_append, List.length_append, hlb, hmb]⟩

/-- A `SEND` is one call and the ten bytes of each of its payload's and its frame's six other blocks (30_encoding.md R61). -/
theorem sized_send (addr : Addr) {payload : List Byte} {n : Nat} (h : payload.length = n) :
    Sized [.send addr payload] 1 ((n + 6) * 10) :=
  ⟨rfl, by simp [opFrame, h]⟩

theorem sized_sendByte (addr : Addr) (b : Byte) : Sized [.send addr [b]] 1 70 := sized_send addr rfl

theorem sized_dly (ms : Addr) : Sized [.dly ms] 0 0 := ⟨rfl, rfl⟩

theorem sized_csAssert (c : CommandConstants) : Sized (csAssert c) 1 70 := sized_sendByte c.aCsOn c.vCsOn

theorem sized_csDeassert (c : CommandConstants) : Sized (csDeassert c) 1 70 := sized_sendByte c.aCsOff c.vCsOff

theorem sized_chipReset (c : CommandConstants) : Sized (chipReset c) 1 70 := sized_sendByte c.aPwdn c.vReset

theorem sized_cpuStop (c : CommandConstants) : Sized (cpuStop c) 1 70 := sized_sendByte c.aCpuctl c.vCpuStop

/-- In single-shot form the deselect byte is part of the payload (42_command_layer.md R113). -/
theorem sized_issueOpcode_singleShot (c : CommandConstants) (opcode : Byte) (extra : List Byte) :
    Sized (issueOpcode c opcode extra true) 2 (70 + (extra.length + 8) * 10) := by
  have hlen : ([opcode] ++ extra ++ [c.vCsOff]).length = extra.length + 2 := by simp
  exact (sized_csAssert c).append (sized_send c.aFdata hlen)

theorem sized_issueOpcode (c : CommandConstants) (opcode : Byte) (extra : List Byte) :
    Sized (issueOpcode c opcode extra false) 2 (70 + (extra.length + 7) * 10) :=
  (sized_csAssert c).append (sized_send c.aFdata (List.length_cons ..))

theorem sized_writeEnable (c : CommandConstants) : Sized (writeEnable c) 2 150 :=
  sized_issueOpcode_singleShot c c.opWren []

theorem sized_clearProtectStatus (c : CommandConstants) : Sized (clearProtectStatus c) 5 380 :=
  ((sized_writeEnable c).append ((sized_issueOpcode c c.opWrsr [c.srUnlock, 0x00]).append (sized_csDeassert c))).append
    (sized_dly Config.tStatus)

theorem sized_sectorErase (c : CommandConstants) (a : Addr) : Sized (sectorErase c a) 5 390 :=
  ((sized_writeEnable c).append ((sized_issueOpcode c c.opSe (flashAddress a)).append (sized_csDeassert c))).append
    (sized_dly Config.tErase)

theorem sized_programBurst (c : CommandConstants) (a : Addr) (data : List Byte) :
    Sized [programBurst c a data] 1 ((data.length + 10) * 10) := by
  have hlen : ([c.opPp] ++ flashAddress a ++ data).length = data.length + 4 := by simp [flashAddress]
  exact sized_send c.aFdata hlen

theorem sized_pageProgram (c : CommandConstants) (a : Addr) (data : List Byte) :
    Sized (pageProgram c a data) 7 (430 + (data.length + 10) * 10) := by
  have hbracketed := ((sized_sendByte c.aSwsid c.vFifoOn).append (sized_programBurst c a data)).append
    (sized_sendByte c.aSwsid c.vFifoOff)
  have hcommand := ((sized_csAssert c).append hbracketed).append (sized_csDeassert c)
  obtain ⟨hcalls, hbytes⟩ := ((sized_writeEnable c).append hcommand).append (sized_dly Config.tProg)
  exact ⟨hcalls, hbytes.trans (by omega)⟩

/-- Each turn of the halt loop is two writes (42_command_layer.md R118). -/
theorem sized_forceHalt (c : CommandConstants) (dur n : Nat) : Sized (forceHalt c dur n) (2 * n) (140 * n) := by
  induction n with
  | zero => exact ⟨rfl, rfl⟩
  | succ n ih =>
    have hturn := ((sized_chipReset c).append (sized_cpuStop c)).append (sized_dly 1)
    rw [forceHalt_succ, Nat.mul_succ, Nat.mul_succ, Nat.add_comm (2 * n), Nat.add_comm (140 * n)]
    exact hturn.append ih

theorem sized_configureBusClock (c : CommandConstants) : Sized (configureBusClock c) 2 140 :=
  (sized_sendByte c.aClk c.vClkdiv).append (sized_cpuStop c)

/-- Settles O44, from the sizes of the parts of each pseudo-instruction. -/
theorem pseudoInstructionSizes : Obligations.PseudoInstructionSizes := fun c a opcode extra data dur n =>
  ⟨sized_csAssert c, sized_csDeassert c, sized_issueOpcode_singleShot c opcode extra, sized_issueOpcode c opcode extra,
    sized_writeEnable c, sized_issueOpcode_singleShot c c.opWake [], sized_clearProtectStatus c, sized_sectorErase c a,
    sized_pageProgram c a data, sized_forceHalt c dur n, sized_configureBusClock c, sized_chipReset c⟩

end Sys2Proof.Machine
end

section
/-! SUPPORT. The operations of `program` block by block (43_flash_programmer.md R133 to R138), and the events any run of a host
program leaves: those of its operations, up to the failure that ends it (R139). -/

namespace Sys2Proof.Safety

open Sys2Proof.Machine

/-- One turn of the halt loop (42_command_layer.md R118). -/
def haltTurn (c : CommandConstants) : List Instr := chipReset c ++ cpuStop c ++ [Instr.dly Config.tHalt]

/-- A block of operations of `program`: a turn of the halt loop or one whole pseudo-instruction. -/
inductive ProgramBlock (c : CommandConstants) : List Instr → Prop
  | haltTurn : ProgramBlock c (haltTurn c)
  | configureBusClock : ProgramBlock c (configureBusClock c)
  | wake : ProgramBlock c (wake c)
  | clearProtectStatus : ProgramBlock c (clearProtectStatus c)
  | sectorErase (a : Addr) : ProgramBlock c (sectorErase c a)
  | pageProgram (a : Addr) {data : List Byte} (hne : data ≠ []) (hpage : data.length ≤ Config.page) :
      ProgramBlock c (pageProgram c a data)
  | chipReset : ProgramBlock c (chipReset c)

/-- A chunk of the loop is never empty and never longer than a page (43_flash_programmer.md R136). -/
theorem chunkAt_bounds {fw : List Byte} {off : Nat} (h : off < fw.length) :
    chunkAt fw off ≠ [] ∧ (chunkAt fw off).length ≤ Config.page := by
  have hlen : (chunkAt fw off).length = min Config.page (fw.length - off) := by simp [chunkAt]
  refine ⟨List.ne_nil_of_length_pos ?_, ?_⟩ <;> rw [hlen, Config.page] <;> omega

section Induction

variable {c : CommandConstants} {P : List Instr → Prop} (nil : P []) (append : ∀ l m, P l → P m → P (l ++ m))
  (block : ∀ ops, ProgramBlock c ops → P ops)

include append block in
theorem chunkActions_induct {fw : List Byte} {off : Nat} (h : off < fw.length) : P (actionOps (chunkActions c fw off)) := by
  obtain ⟨hne, hpage⟩ := chunkAt_bounds h
  have hprogram := block _ (.pageProgram (BitVec.ofNat 24 off) hne hpage)
  rw [chunkActions]
  split
  · simpa [actionOps] using append _ _ (block _ (.sectorErase (BitVec.ofNat 24 off))) hprogram
  · simpa [actionOps] using hprogram

include nil append block

theorem chunkLoop_induct (fw : List Byte) (fuel off : Nat) : P (actionOps (chunkLoop c fw fuel off)) := by
  induction fuel generalizing off with
  | zero => exact nil
  | succ fuel ih =>
    rw [chunkLoop]
    split
    · next hoff =>
      rw [actionOps_append]
      exact append _ _ (chunkActions_induct append block hoff) (ih _)
    · exact nil

theorem forceHalt_induct (dur n : Nat) : P (forceHalt c dur n) := by
  induction n with
  | zero => exact nil
  | succ n ih => rw [forceHalt_succ]; exact append _ _ (block _ .haltTurn) ih

/-- What holds of no operations, of every block and of any two such lists put together, holds of the operations of `program`. -/
theorem programActions_induct (dur n t0 : Nat) (fw : List Byte) : P (actionOps (programActions c dur n t0 fw)) := by
  have hclear : P (if 0 < fw.length then clearProtectStatus c ++ clearProtectStatus c else []) := by
    split
    · exact append _ _ (block _ .clearProtectStatus) (block _ .clearProtectStatus)
    · exact nil
  have hstart := append _ _ (append _ _ (forceHalt_induct nil append block dur n) (block _ .configureBusClock)) (block _ .wake)
  have hloop := chunkLoop_induct nil append block fw fw.length 0
  have hall := append _ _ (append _ _ (append _ _ hstart hclear) hloop) (block _ .chipReset)
  simpa [programActions, actionOps, apply_ite actionOps] using hall

end Induction

/-- A payload of 1 to 260 bytes is admitted whatever `MAX_PAYLOAD` is (00_scope.md R6). -/
theorem layerOp_send (a : Addr) {payload : List Byte} (hne : payload ≠ []) (h : payload.length ≤ 260) :
    LayerOp (.send a payload) :=
  ⟨hne, h.trans Config.maxPayload_ge⟩

theorem programBlock_layerOps {c : CommandConstants} {ops : List Instr} (h : ProgramBlock c ops) :
    ∀ i ∈ ops, LayerOp i := by
  have hdly (ms : Addr) : LayerOp (.dly ms) := trivial
  cases h with
  | haltTurn => simp [haltTurn, chipReset, cpuStop, layerOp_send, hdly]
  | configureBusClock => simp [configureBusClock, cpuStop, layerOp_send]
  | wake => simp [wake, issueOpcode, csAssert, layerOp_send]
  | clearProtectStatus =>
    simp [clearProtectStatus, writeEnable, statusWrite, issueOpcode, csAssert, csDeassert, layerOp_send, hdly]
  | sectorErase a =>
    simp [sectorErase, writeEnable, eraseCommand, issueOpcode, csAssert, csDeassert, flashAddress, layerOp_send, hdly]
  | @pageProgram a data hne hpage =>
    rw [Config.page] at hpage
    have hburst : LayerOp (programBurst c a data) := layerOp_send _ (by simp) (by simp [flashAddress]; omega)
    simp [pageProgram, writeEnable, programCommand, issueOpcode, csAssert, csDeassert, layerOp_send, hdly, hburst]
  | chipReset => simp [chipReset, layerOp_send]

/-- `program` issues only operations of the command layer (42_command_layer.md R122). -/
theorem programActions_layerOps (c : CommandConstants) (dur n t0 : Nat) (fw : List Byte) :
    ∀ i ∈ actionOps (programActions c dur n t0 fw), LayerOp i :=
  programActions_induct (P := fun ops => ∀ i ∈ ops, LayerOp i) (by simp)
    (fun _ _ hl hm => List.forall_mem_append.mpr ⟨hl, hm⟩) (fun _ => programBlock_layerOps) dur n t0 fw

/-- The events are those expected, whole or cut short by the one failure that ends them. -/
inductive CutShort (expected : List Event) : List Event → Prop
  | whole : CutShort expected expected
  | cut {begun : List Event} (h : begun <+: expected) (kind : FailKind) : CutShort expected (begun ++ [.failed 0 kind])

theorem CutShort.append_left {expected events : List Event} (l : List Event) (h : CutShort expected events) :
    CutShort (l ++ expected) (l ++ events) := by
  cases h with
  | whole => exact .whole
  | cut h kind => rw [← List.append_assoc]; exact .cut ((List.prefix_append_right_inj l).mpr h) kind

/-- What begins the events and does not end in the failure begins the expected events. -/
theorem CutShort.prefix_expected {expected events l : List Event} {e : Event} (h : CutShort expected events)
    (he : isFail e = false) (hl : l ++ [e] <+: events) : l ++ [e] <+: expected := by
  cases h with
  | whole => exact hl
  | cut h kind =>
    obtain heq | hbegun := List.prefix_concat_iff.mp hl
    · obtain rfl : e = .failed 0 kind := by simpa using congrArg List.getLast? heq
      cases he
    · exact hbegun.trans h

/-- An operation of the command layer issued on an open idle transport leaves its events, or is cut short and raises a fault. -/
theorem hostIssue_events {i : Instr} {s : State} (hi : LayerOp i) (hr : ReadyTransport s) :
    ∃ t new, hostIssue i s = .next t ∧ t.hist = s.hist ++ new ∧
      ((t.result = .done ∧ ReadyTransport t ∧ new.map shape = opShapes i) ∨
        ∃ f begun kind, t.result = .raised f ∧ begun <+: opShapes i ∧ new.map shape = begun ++ [.failed 0 kind]) := by
  obtain ⟨t, new, hissue, hhist, -, ⟨hdone, ht, -, -, hnew, -⟩ | ⟨hraised, -, -, -, -, hfailed⟩⟩ := hostIssue_layer hi hr
  · exact ⟨t, new, hissue, hhist, .inl ⟨hdone, ht, hnew⟩⟩
  · refine ⟨t, new, hissue, hhist, .inr ?_⟩
    obtain hwrite | hflush := hfailed
    · exact ⟨_, [], .write, hraised, List.nil_prefix, hwrite⟩
    · cases i with
      | send addr payload => exact ⟨_, [.write 0 (opFrame (.send addr payload))], .flush, hraised, ⟨[.flush], rfl⟩, hflush⟩
      | dly ms =>
        obtain rfl := Host.Outcome.next.inj (((hr.hostIssue_eq _).trans (dlyRecordsTheWait ms s)).symm.trans hissue)
        cases hraised
      | encb _ => exact hi.elim
      | enct _ _ => exact hi.elim
      | txw _ => exact hi.elim
      | txf => exact hi.elim
      | txo => exact hi.elim
      | txc => exact hi.elim

/-- Every run of a host program of layer operations from an open idle transport ends, and the events it adds are those of its
operations, whole or cut short by the failure at which it aborts (43_flash_programmer.md R139). -/
theorem runActions_events {as : List HostAction} (hops : ∀ i ∈ actionOps as, LayerOp i) (fp : ProgSession) {s : State}
    (hr : ReadyTransport s) :
    ∃ e new, runActions as fp s = .next e ∧ e.state.hist = s.hist ++ new ∧
      CutShort (shapes (actionOps as)) (new.map shape) := by
  induction as generalizing fp s with
  | nil => exact ⟨_, [], rfl, (List.append_nil _).symm, .whole⟩
  | cons a as ih =>
    cases a with
    | enter st => exact ih hops _ hr
    | setCursor off => exact ih hops _ hr
    | setErased off => exact ih hops _ hr
    | readClock now => exact ih hops _ hr
    | issue i =>
      obtain ⟨hi, hops⟩ := List.forall_mem_cons.mp hops
      obtain ⟨t, new, hissue, hhist, ⟨hdone, ht, hnew⟩ | ⟨f, begun, kind, hraised, hbegun, hnew⟩⟩ := hostIssue_events hi hr
      · obtain ⟨e, more, hrun, hmore, hcut⟩ := ih hops fp ht
        refine ⟨e, new ++ more, (runActions_done hissue hdone).trans hrun, ?_, ?_⟩
        · rw [hmore, hhist, List.append_assoc]
        · rw [actionOps, shapes_cons, List.map_append, hnew]
          exact hcut.append_left _
      · refine ⟨_, new, runActions_raised hissue hraised, hhist, ?_⟩
        rw [hnew, actionOps, shapes_cons]
        exact .cut (hbegun.trans (List.prefix_append _ _)) kind

/-- Every run of `program` ends, and adds the events of its operations up to the failure that aborts it. -/
theorem runProgram_events (c : CommandConstants) (dur n t0 : Nat) (fw : List Byte) {s : State} (hr : ReadyTransport s) :
    ∃ e new, runProgram c dur n t0 fw s = .next e ∧ e.state.hist = s.hist ++ new ∧
      CutShort (shapes (actionOps (programActions c dur n t0 fw))) (new.map shape) :=
  runActions_events (programActions_layerOps c dur n t0 fw) _ hr

/-- A write among the events of layer operations is that of a `SEND` with the same frame, at the same place. -/
theorem exists_send_of_write {ops : List Instr} (hops : ∀ i ∈ ops, LayerOp i) {l : List Event} {frame : List Byte}
    (h : l ++ [.write 0 frame] <+: shapes ops) :
    ∃ before addr payload after, ops = before ++ .send addr payload :: after ∧ shapes before = l ∧
      encTransaction Config.line addr payload = frame := by
  induction ops generalizing l with
  | nil => simp at h
  | cons i ops ih =>
    obtain ⟨hi, hrest⟩ := List.forall_mem_cons.mp hops
    rw [shapes_cons] at h
    cases i with
    | send addr payload =>
      rcases l with _ | ⟨e, _ | ⟨e', l⟩⟩
      · have hframe : frame = encTransaction Config.line addr payload := by simpa [opShapes] using h
        exact ⟨[], addr, payload, ops, rfl, rfl, hframe.symm⟩
      · simp [opShapes] at h
      · obtain ⟨rfl, rfl, hlater⟩ : e = .write 0 (encTransaction Config.line addr payload) ∧ e' = .flush ∧
            l ++ [.write 0 frame] <+: shapes ops := by simpa [opShapes] using h
        obtain ⟨before, addr', payload', after, rfl, rfl, hframe⟩ := ih hrest hlater
        exact ⟨_ :: before, addr', payload', after, rfl, rfl, hframe⟩
    | dly ms =>
      rcases l with _ | ⟨e, l⟩
      · simp [opShapes] at h
      · obtain ⟨rfl, hlater⟩ : e = .wait ms.toNat ∧ l ++ [.write 0 frame] <+: shapes ops := by simpa [opShapes] using h
        obtain ⟨before, addr, payload, after, rfl, rfl, hframe⟩ := ih hrest hlater
        exact ⟨_ :: before, addr, payload, after, rfl, rfl, hframe⟩
    | encb _ => exact hi.elim
    | enct _ _ => exact hi.elim
    | txw _ => exact hi.elim
    | txf => exact hi.elim
    | txo => exact hi.elim
    | txc => exact hi.elim

end Sys2Proof.Safety
end

section
/-! SUPPORT. Write-enable before every mutation (70_reset_and_hazards.md R173). In the operations of `program` the payloads of 3
bytes or more are those of the mutations, so the length of a frame tells that it belongs to one, whatever the constants are. -/

namespace Sys2Proof.Safety

open Sys2Proof.Machine

/-- The operations of a mutation before its payload of `len` bytes: select, and before a burst, the only payload above 4 bytes,
the FIFO flag (42_command_layer.md R115 to R117). -/
def leadIn (c : CommandConstants) (len : Nat) : List Instr :=
  if len ≤ 4 then csAssert c else csAssert c ++ [Instr.send c.aSwsid [c.vFifoOn]]

/-- Each payload of 3 bytes or more stands behind the write-enable and the lead-in of its mutation. -/
def WriteEnabled (c : CommandConstants) (ops : List Instr) : Prop :=
  ∀ before addr payload after, ops = before ++ .send addr payload :: after → 3 ≤ payload.length →
    writeEnable c ++ leadIn c payload.length <:+ before

namespace WriteEnabled

variable {c : CommandConstants}

theorem of_short {ops : List Instr} (h : ∀ i ∈ ops, i.operands.length < 3) : WriteEnabled c ops := by
  rintro before addr payload after rfl hlen
  have hshort : payload.length < 3 := h (.send addr payload) (by simp)
  omega

theorem append {l m : List Instr} (hl : WriteEnabled c l) (hm : WriteEnabled c m) : WriteEnabled c (l ++ m) := by
  intro before addr payload after heq hlen
  obtain ⟨mid, rfl, hmid⟩ | ⟨mid, rfl, hmid⟩ := List.append_eq_append_iff.mp heq
  · exact (hm mid addr payload after hmid hlen).trans (List.suffix_append l mid)
  · cases mid with
    | nil => simpa using (hm [] addr payload after hmid.symm hlen).trans List.nil_suffix
    | cons i mid =>
      obtain ⟨rfl, rfl⟩ := List.cons.inj hmid
      exact hl before addr payload mid rfl hlen

theorem snoc {ops : List Instr} {payload : List Byte} (h : WriteEnabled c ops) (addr : Addr)
    (hguard : writeEnable c ++ leadIn c payload.length <:+ ops) : WriteEnabled c (ops ++ [.send addr payload]) := by
  intro before addr' payload' after heq hlen
  obtain rfl | ⟨init, last, rfl⟩ := List.eq_nil_or_concat' after
  · obtain ⟨rfl, hlast⟩ := List.append_inj' heq rfl
    obtain ⟨rfl, rfl⟩ : addr = addr' ∧ payload = payload' := by simpa using hlast
    exact hguard
  · rw [← List.cons_append, ← List.append_assoc] at heq
    exact h before addr' payload' init (List.append_inj' heq rfl).1 hlen

/-- A mutation: its write-enable, its lead-in, its payload, and what follows it. -/
theorem mutation (addr : Addr) (payload : List Byte) {tail : List Instr} (htail : ∀ i ∈ tail, i.operands.length < 3) :
    WriteEnabled c (writeEnable c ++ leadIn c payload.length ++ .send addr payload :: tail) := by
  have hbefore : ∀ i ∈ writeEnable c ++ leadIn c payload.length, i.operands.length < 3 := by
    rw [leadIn]
    split <;> simp [writeEnable, issueOpcode, csAssert, Instr.operands]
  rw [List.append_cons]
  exact ((of_short hbefore).snoc addr List.suffix_rfl).append (of_short htail)

end WriteEnabled

theorem programBlock_writeEnabled {c : CommandConstants} {ops : List Instr} (h : ProgramBlock c ops) :
    WriteEnabled c ops := by
  have hend (ms : Addr) : ∀ i ∈ csDeassert c ++ [.dly ms], i.operands.length < 3 := by
    simp [csDeassert, Instr.operands]
  cases h with
  | haltTurn => exact .of_short (by simp [haltTurn, chipReset, cpuStop, Instr.operands])
  | configureBusClock => exact .of_short (by simp [configureBusClock, cpuStop, Instr.operands])
  | wake => exact .of_short (by simp [wake, issueOpcode, csAssert, Instr.operands])
  | clearProtectStatus => exact .mutation c.aFdata [c.opWrsr, c.srUnlock, 0x00] (hend Config.tStatus)
  | sectorErase a => exact .mutation c.aFdata (c.opSe :: flashAddress a) (hend Config.tErase)
  | @pageProgram a data hne hpage =>
    have hburst := WriteEnabled.mutation (c := c) c.aFdata ([c.opPp] ++ flashAddress a ++ data)
      (tail := .send c.aSwsid [c.vFifoOff] :: (csDeassert c ++ [.dly Config.tProg]))
      (List.forall_mem_cons.mpr ⟨by simp [Instr.operands], hend _⟩)
    have hpos := List.length_pos_iff.mpr hne
    have hlong : ¬ ([c.opPp] ++ flashAddress a ++ data).length ≤ 4 := by simp [flashAddress]; omega
    rwa [leadIn, if_neg hlong] at hburst
  | chipReset => exact .of_short (by simp [chipReset, Instr.operands])

theorem programActions_writeEnabled (c : CommandConstants) (dur n t0 : Nat) (fw : List Byte) :
    WriteEnabled c (actionOps (programActions c dur n t0 fw)) :=
  programActions_induct (.of_short (by simp)) (fun _ _ => .append) (fun _ => programBlock_writeEnabled) dur n t0 fw

theorem suffix_of_append_suffix_append {l m tail : List Event} (h : l ++ tail <:+ m ++ tail) : l <:+ m := by
  obtain ⟨front, hfront⟩ := h
  exact ⟨front, List.append_cancel_right ((List.append_assoc ..).trans hfront)⟩

/-- A frame of 3 payload bytes or more in the events of write-enabled operations stands behind the frames of the write-enable and
the lead-in; `lead` is what is known of the operations between the write-enable and it. -/
theorem WriteEnabled.occurs {c : CommandConstants} {ops lead tail : List Instr} {new pre post : List Event} {addr : Addr}
    {payload : List Byte} (hw : WriteEnabled c ops) (hops : ∀ i ∈ ops, LayerOp i)
    (hcut : CutShort (shapes ops) (new.map shape)) (h : Occurs new pre (lead ++ .send addr payload :: tail) post)
    (hlen : 3 ≤ payload.length) : shapes (writeEnable c ++ leadIn c payload.length) <:+ pre ++ shapes lead := by
  have hbegun : pre ++ shapes lead ++ [.write 0 (encTransaction Config.line addr payload)] <+: new.map shape :=
    ⟨.flush :: (shapes tail ++ post), by rw [h]; simp [opShapes]⟩
  obtain ⟨before, addr', payload', after, rfl, hbefore, hframe⟩ := exists_send_of_write hops (hcut.prefix_expected rfl hbegun)
  have hsame : payload'.length = payload.length := by simpa using congrArg List.length hframe
  obtain ⟨front, hfront⟩ := hw before addr' payload' after rfl (hsame ▸ hlen)
  rw [← hbefore, ← hsame]
  exact ⟨shapes front, by rw [← shapes_append, hfront]⟩

/-- The frames of a write-enable and select are not the end of two single-byte frames: the payload of the write-enable is of two
bytes. -/
theorem not_writeEnable_csAssert_suffix (c : CommandConstants) (pre : List Event) (a b : Addr) (x y : Byte) :
    ¬ shapes (writeEnable c ++ csAssert c) <:+ pre ++ shapes [.send a [x], .send b [y]] := by
  rintro ⟨front, hfront⟩
  have hsplit : shapes (writeEnable c ++ csAssert c) =
      shapes (csAssert c) ++ shapes (.send c.aFdata [c.opWren, c.vCsOff] :: csAssert c) := rfl
  rw [hsplit, ← List.append_assoc] at hfront
  have hlast := (List.append_inj' hfront rfl).2
  have hframe : encTransaction Config.line c.aFdata [c.opWren, c.vCsOff] = encTransaction Config.line a [x] :=
    (Event.write.inj (List.cons.inj hlast).1).2
  simpa using congrArg List.length hframe

/-- Write-enabled operations leave write-enabled mutations in the history, however they are cut short. -/
theorem WriteEnabled.beforeMutation {c : CommandConstants} {ops : List Instr} {new : List Event} (hw : WriteEnabled c ops)
    (hops : ∀ i ∈ ops, LayerOp i) (hcut : CutShort (shapes ops) (new.map shape)) : WriteEnableBeforeMutation c new := by
  refine ⟨fun pre post h => ?_, fun a pre post h => ?_, fun a data pre post h => ?_⟩
  · have hguard := hw.occurs hops hcut (lead := csAssert c) (payload := [c.opWrsr, c.srUnlock, 0x00]) h (Nat.le_refl 3)
    exact suffix_of_append_suffix_append (shapes_append .. ▸ hguard)
  · have hguard := hw.occurs hops hcut (lead := csAssert c) (payload := c.opSe :: flashAddress a) h (Nat.le_succ 3)
    exact suffix_of_append_suffix_append (shapes_append .. ▸ hguard)
  · have hguard := hw.occurs hops hcut (lead := csAssert c ++ [.send c.aSwsid [c.vFifoOn]])
      (payload := [c.opPp] ++ flashAddress a ++ data) h (by simp [flashAddress])
    rw [leadIn] at hguard
    split at hguard
    · exact absurd hguard (not_writeEnable_csAssert_suffix c pre _ _ _ _)
    · exact suffix_of_append_suffix_append (shapes_append .. ▸ hguard)

/-- Settles O52: the operations of `program` are write-enabled, and the events of a run are theirs up to the failure. -/
theorem programWriteEnablesFirst : Obligations.ProgramWriteEnablesFirst := by
  intro c dur n t0 fw s hr
  obtain ⟨e, new, hrun, hhist, hcut⟩ := runProgram_events c dur n t0 fw hr
  exact ⟨e, new, hrun, hhist,
    (programActions_writeEnabled c dur n t0 fw).beforeMutation (programActions_layerOps c dur n t0 fw) hcut⟩

end Sys2Proof.Safety
end

section
/-! SUPPORT. The flashing sequence, turn by turn: the host's record `FP` along its actions, each operation with its step and
offset (43_flash_programmer.md R132 to R139), and from these the operations of the loop and the number of write calls. -/

namespace Sys2Proof.Machine

/-- `FP` after these actions, when none of them aborts the run (10_state.md R28). -/
def sessionAfter (as : List HostAction) (fp : ProgSession) : ProgSession := as.foldl (fun fp a => a.update fp) fp

@[simp] theorem sessionAfter_append (as bs : List HostAction) (fp : ProgSession) :
    sessionAfter (as ++ bs) fp = sessionAfter bs (sessionAfter as fp) := List.foldl_append

/-- The operations of the block leave `FP` alone. -/
@[simp] theorem sessionAfter_issues (ops : List Instr) (fp : ProgSession) : sessionAfter (issues ops) fp = fp := by
  induction ops with
  | nil => rfl
  | cons _ _ ih => exact ih

/-- The later actions are labelled from the `FP` that the earlier ones leave. -/
theorem labelledOps_append (as bs : List HostAction) (fp : ProgSession) :
    labelledOps (as ++ bs) fp = labelledOps as fp ++ labelledOps bs (sessionAfter as fp) := by
  induction as generalizing fp with
  | nil => rfl
  | cons a as ih =>
    cases a with
    | enter st => exact ih _
    | setCursor off => exact ih _
    | setErased off => exact ih _
    | readClock now => exact ih _
    | issue i => exact congrArg (List.cons _) (ih fp)

/-- Actions that are labelled alike from every `FP` are labelled one after the other. -/
theorem labelledOps_flatMap {α : Type} {f : α → List HostAction} {g : α → List LabelledOp}
    (h : ∀ x fp, labelledOps (f x) fp = g x) (l : List α) (fp : ProgSession) :
    labelledOps (l.flatMap f) fp = l.flatMap g := by
  induction l generalizing fp with
  | nil => rfl
  | cons x l ih => rw [List.flatMap_cons, List.flatMap_cons, labelledOps_append, h, ih]

/-- The number of chunks of an image. -/
def pageCount (fw : List Byte) : Nat := (fw.length + 255) / 256

/-- With fuel for all of the `m` chunks from chunk `k` on, the loop makes one turn for each of them. -/
theorem chunkLoop_eq (c : CommandConstants) (fw : List Byte) {fuel k m : Nat} (hfuel : m ≤ fuel)
    (hcount : pageCount fw - k = m) :
    chunkLoop c fw fuel (256 * k) = (List.range' k m).flatMap fun j => chunkActions c fw (256 * j) := by
  rw [pageCount] at hcount
  induction fuel generalizing k m with
  | zero =>
    obtain rfl : m = 0 := by omega
    rfl
  | succ fuel ih =>
    rw [chunkLoop]
    split
    · next hmore =>
      obtain ⟨n, rfl⟩ : ∃ n, m = n + 1 := ⟨m - 1, by omega⟩
      have hnext : 256 * k + Config.page = 256 * (k + 1) := by rw [Config.page]; omega
      rw [hnext, ih (m := n) (by omega) (by omega), List.range'_succ, List.flatMap_cons]
    · next hdone =>
      obtain rfl : m = 0 := by omega
      rfl

/-- The loop makes one turn for each chunk of the image (43_flash_programmer.md R136). -/
theorem chunkLoop_eq_flatMap (c : CommandConstants) (fw : List Byte) :
    chunkLoop c fw fw.length 0 = (List.range (pageCount fw)).flatMap fun k => chunkActions c fw (256 * k) := by
  rw [List.range_eq_range']
  exact chunkLoop_eq c fw (k := 0) (by rw [pageCount]; omega) rfl

/-- The operations of turn `k` of the loop, with their labels (43_flash_programmer.md R136, R139). -/
def turnLabels (c : CommandConstants) (fw : List Byte) (k : Nat) : List LabelledOp :=
  (if k % 16 = 0 then
    (sectorErase c (BitVec.ofNat 24 (256 * k))).map (fun i => { step := .erasing, offset := some (256 * k), op := i })
  else []) ++
  (pageProgram c (BitVec.ofNat 24 (256 * k)) ((fw.drop (256 * k)).take 256)).map
    (fun i => { step := .programming, offset := some (256 * k), op := i })

theorem labelledOps_of_issues (ops : List Instr) (fp : ProgSession) :
    labelledOps (issues ops) fp = ops.map fun i => { step := fp.state, offset := errorOffset fp, op := i } := by
  simpa [labelledOps] using labelledOps_issues ops [] fp

/-- A turn sets the step and the offset before it issues anything, so its labels do not depend on what was in progress. -/
theorem labelledOps_chunkActions (c : CommandConstants) (fw : List Byte) (k : Nat) (fp : ProgSession) :
    labelledOps (chunkActions c fw (256 * k)) fp = turnLabels c fw k := by
  have hsector : 256 * k % Config.sector = 0 ↔ k % 16 = 0 := by rw [Config.sector]; omega
  rw [chunkActions, turnLabels]
  simp only [hsector]
  split <;>
    simp [labelledOps_append, labelledOps_of_issues, labelledOps, HostAction.update, errorOffset, chunkAt, Config.page]

theorem labelledOps_chunkLoop (c : CommandConstants) (fw : List Byte) (fp : ProgSession) :
    labelledOps (chunkLoop c fw fw.length 0) fp = (List.range (pageCount fw)).flatMap (turnLabels c fw) := by
  rw [chunkLoop_eq_flatMap]
  exact labelledOps_flatMap (labelledOps_chunkActions c fw) _ fp

/-- The status clears of `program`: none of an empty image, otherwise two (43_flash_programmer.md R135). -/
def statusClears (c : CommandConstants) (fw : List Byte) : List Instr :=
  if fw = [] then [] else clearProtectStatus c ++ clearProtectStatus c

theorem issues_statusClears (c : CommandConstants) (fw : List Byte) :
    (if 0 < fw.length then issues (clearProtectStatus c) ++ issues (clearProtectStatus c) else []) =
      issues (statusClears c fw) := by
  cases fw with
  | nil => rfl
  | cons b fw => simp [statusClears, issues]

/-- Settles O59: each phase of `program` enters its step and then issues its operations, and the loop goes turn by turn. -/
theorem operationsCarryTheirStep : Obligations.OperationsCarryTheirStep := by
  intro c dur n t0 fw
  have hclears : (statusClears c fw).map (LabelledOp.mk .statusCleared none) =
      if fw = [] then [] else (clearProtectStatus c ++ clearProtectStatus c).map (LabelledOp.mk .statusCleared none) := by
    rw [statusClears, apply_ite (List.map _), List.map_nil]
  rw [← hclears, programActions, issues_statusClears]
  change _ = _ ++ (List.range (pageCount fw)).flatMap (turnLabels c fw) ++ _
  simp [labelledOps_append, labelledOps_of_issues, labelledOps_chunkLoop, labelledOps, HostAction.update, errorOffset,
    newProgSession]

/-- The operations of turn `k` of the loop (43_flash_programmer.md R136). -/
def turnOps (c : CommandConstants) (fw : List Byte) (k : Nat) : List Instr :=
  (if k % 16 = 0 then sectorErase c (BitVec.ofNat 24 (256 * k)) else []) ++
  pageProgram c (BitVec.ofNat 24 (256 * k)) ((fw.drop (256 * k)).take 256)

theorem turnLabels_op (c : CommandConstants) (fw : List Byte) (k : Nat) :
    (turnLabels c fw k).map (·.op) = turnOps c fw k := by
  rw [turnLabels, turnOps]
  split <;> simp [Function.comp_def]

/-- The operations of the loop are those that the labels of its turns carry. -/
theorem actionOps_chunkLoop (c : CommandConstants) (fw : List Byte) :
    actionOps (chunkLoop c fw fw.length 0) = (List.range (pageCount fw)).flatMap (turnOps c fw) := by
  rw [← labelledOps_op _ newProgSession, labelledOps_chunkLoop, List.map_flatMap]
  exact congrArg (List.flatMap · _) (funext (turnLabels_op c fw))

/-- Settles O48. -/
theorem loopErasesThenPrograms : Obligations.LoopErasesThenPrograms := actionOps_chunkLoop

/-- The operations of `program`, phase by phase (43_flash_programmer.md R138). -/
theorem actionOps_programActions (c : CommandConstants) (dur n t0 : Nat) (fw : List Byte) :
    actionOps (programActions c dur n t0 fw) =
      forceHalt c dur n ++ configureBusClock c ++ wake c ++ statusClears c fw ++
        (List.range (pageCount fw)).flatMap (turnOps c fw) ++ chipReset c := by
  rw [programActions, issues_statusClears]
  simp [actionOps, actionOps_chunkLoop]

theorem Sized.calls {ops : List Instr} {calls bytes : Nat} (h : Sized ops calls bytes) :
    callCount ops = calls := by
  obtain ⟨hcalls, -⟩ := h
  exact hcalls

theorem sized_wake (c : CommandConstants) : Sized (wake c) 2 150 := sized_issueOpcode_singleShot c c.opWake []

/-- A turn makes 7 write calls for its page and, at a sector's start, 5 for the erase. -/
theorem callCount_turnOps (c : CommandConstants) (fw : List Byte) (k : Nat) :
    callCount (turnOps c fw k) = (if k % 16 = 0 then 5 else 0) + 7 := by
  rw [turnOps, callCount_append, (sized_pageProgram c _ _).calls, apply_ite callCount,
    (sized_sectorErase c _).calls, Safety.callCount_nil]

/-- Over `m` turns the sectors are counted as they are begun (43_flash_programmer.md R138). -/
theorem callCount_turns (c : CommandConstants) (fw : List Byte) (m : Nat) :
    callCount ((List.range m).flatMap (turnOps c fw)) = 5 * ((m + 15) / 16) + 7 * m := by
  induction m with
  | zero => rfl
  | succ m ih =>
    rw [List.range_succ, List.flatMap_append, callCount_append, ih, List.flatMap_singleton, callCount_turnOps]
    split <;> omega

theorem callCount_statusClears (c : CommandConstants) (fw : List Byte) :
    callCount (statusClears c fw) = if fw = [] then 0 else 10 := by
  rw [statusClears, apply_ite callCount, callCount_append, (sized_clearProtectStatus c).calls, Safety.callCount_nil]

/-- Settles O49: the calls of the phases and of the loop's turns; a sector is sixteen pages. -/
theorem programWriteCalls : Obligations.ProgramWriteCalls := by
  intro c dur n t0 fw
  simp only [actionOps_programActions, callCount_append, (sized_forceHalt c dur n).calls,
    (sized_configureBusClock c).calls, (sized_wake c).calls, callCount_statusClears, callCount_turns,
    (sized_chipReset c).calls, pageCount]
  rcases eq_or_ne fw [] with rfl | hne
  · simp
  · have hpos : fw.length ≠ 0 := by simpa using hne
    rw [if_neg hne, if_neg hpos]
    omega

end Sys2Proof.Machine
end

section
/-! SUPPORT. The gate of `flash` (43_flash_programmer.md R130, R131, R140). -/

namespace Sys2Proof.Machine

theorem take_four_eq_iff {l : List Byte} {a b c d : Byte} :
    l.take 4 = [a, b, c, d] ↔ l[0]? = some a ∧ l[1]? = some b ∧ l[2]? = some c ∧ l[3]? = some d := by
  match l with
  | [] => simp
  | [_] => simp
  | [_, _] => simp
  | [_, _, _] => simp
  | _ :: _ :: _ :: _ :: _ => simp

/-- The signature, byte by byte (43_flash_programmer.md R131). -/
theorem magicOk_iff (fw : List Byte) :
    magicOk fw = true ↔ 12 ≤ fw.length ∧ fw[8]? = some 0x54 ∧ fw[9]? = some 0x4C ∧ fw[10]? = some 0x4E ∧
      fw[11]? = some 0x4B := by
  simp only [magicOk, Bool.and_eq_true, decide_eq_true_eq, beq_iff_eq, Config.magic, Config.magicOff, take_four_eq_iff,
    List.getElem?_drop]

section Flash

variable (c : CommandConstants) (dur n t0 : Nat) {fw : List Byte} (s : State)

theorem flash_of_tooLarge (h : 2 ^ 24 < fw.length) :
    flash c dur n t0 fw s = .next { session := none, state := s, answer := .err .imageTooLarge } := if_pos h

theorem flash_of_notMagic (hlen : fw.length ≤ 2 ^ 24) (hmagic : magicOk fw = false) :
    flash c dur n t0 fw s = .next { session := none, state := s, answer := .err .invalidFirmware } :=
  (if_neg hlen.not_gt).trans (if_pos hmagic)

theorem flash_of_admitted (hlen : fw.length ≤ 2 ^ 24) (hmagic : magicOk fw = true) :
    flash c dur n t0 fw s = runProgram c dur n t0 fw s :=
  (if_neg hlen.not_gt).trans (if_neg (by simp [hmagic]))

end Flash

/-- Settles O50. -/
theorem gateRejectsUntouched : Obligations.GateRejectsUntouched := fun c dur n t0 fw s =>
  ⟨magicOk_iff fw, flash_of_tooLarge c dur n t0 s, flash_of_notMagic c dur n t0 s, flash_of_admitted c dur n t0 s⟩

end Sys2Proof.Machine
end

section
/-! SUPPORT. Runs of a host program of layer operations from an open idle transport: carried out when nothing fails, and
otherwise aborted at the first operation that fails (43_flash_programmer.md R137 to R139). -/

namespace Sys2Proof.Safety

open Sys2Proof.Machine

/-- With enough good answers a host program is carried out and answers `Ok`. -/
theorem runActions_carriedOut {as : List HostAction} (hops : ∀ i ∈ actionOps as, LayerOp i) (fp : ProgSession) {s : State}
    {more : List Bool} (hr : ReadyTransport s)
    (hoks : s.env.oks = List.replicate (2 * callCount (actionOps as)) true ++ more) :
    ∃ t, runActions as fp s = .next { session := some (sessionAfter as fp), state := t, answer := .ok } ∧
      CarriedOut (actionOps as) s t := by
  induction as generalizing fp s with
  | nil => exact ⟨s, rfl, .refl hr⟩
  | cons a as ih =>
    cases a with
    | enter st => exact ih hops _ hr hoks
    | setCursor off => exact ih hops _ hr hoks
    | setErased off => exact ih hops _ hr hoks
    | readClock now => exact ih hops _ hr hoks
    | issue i =>
      obtain ⟨hi, hops⟩ := List.forall_mem_cons.mp hops
      rw [actionOps, callCount_cons, Nat.mul_add, List.replicate_add, List.append_assoc] at hoks
      obtain ⟨u, hissue, hdone, hu, hoks⟩ := hostIssue_carriedOut hi hr hoks
      obtain ⟨t, hrun, ht⟩ := ih hops fp hu.ready hoks
      exact ⟨t, (runActions_done hissue hdone).trans hrun, hu.trans ht⟩

/-- `program` ends by entering `Done` (43_flash_programmer.md R137). -/
theorem sessionAfter_programActions (c : CommandConstants) (dur n t0 : Nat) (fw : List Byte) (fp : ProgSession) :
    (sessionAfter (programActions c dur n t0 fw) fp).state = .done := by
  rw [programActions, sessionAfter_append]
  rfl

theorem runProgram_carriedOut (c : CommandConstants) (dur n t0 : Nat) (fw : List Byte) {s : State} {more : List Bool}
    (hr : ReadyTransport s)
    (hoks : s.env.oks = List.replicate (2 * callCount (actionOps (programActions c dur n t0 fw))) true ++ more) :
    ∃ fp t, runProgram c dur n t0 fw s = .next { session := some fp, state := t, answer := .ok } ∧ fp.state = .done ∧
      CarriedOut (actionOps (programActions c dur n t0 fw)) s t := by
  obtain ⟨t, hrun, ht⟩ := runActions_carriedOut (programActions_layerOps c dur n t0 fw) newProgSession hr hoks
  exact ⟨_, t, hrun, sessionAfter_programActions .., ht⟩

/-- Settles O51. -/
theorem faultFreeProgramCompletes : Obligations.FaultFreeProgramCompletes := by
  intro c dur n t0 fw s more hr hoks
  obtain ⟨fp, t, hrun, hfp, ht⟩ := runProgram_carriedOut c dur n t0 fw hr hoks
  exact ⟨_, fp, hrun, rfl, rfl, hfp, ht.ready, ht.line, ht.calls⟩

/-- The run from `s` that added the events `new` has aborted in `e` at the write or flush of `failing`, after the operations
of `done` (43_flash_programmer.md R139, 60_exceptions.md R152). -/
structure AbortedAt (done : List LabelledOp) (failing : LabelledOp) (s : State) (new : List Event) (e : HostEnd) : Prop where
  session : ∃ fp, e.session = some fp ∧ fp.state = .aborted
  answer : e.answer = .err (.transportError failing.step failing.offset e.state.fault)
  fault : e.state.fault = { code := 7, call := s.txCalls + callCount (done.map (·.op)) + 1, addr := failing.op.argField }
  txErr : e.state.txErr = true
  txOpen : e.state.txOpen = true
  events : new.map shape = shapes (done.map (·.op)) ++ [.failed 0 .write] ∨
    new.map shape = shapes (done.map (·.op)) ++ [.write 0 (opFrame failing.op), .failed 0 .flush]

/-- A run that aborts after its first operation `op` is done has aborted with `op` among the operations carried out. -/
theorem AbortedAt.cons {done : List LabelledOp} {failing op : LabelledOp} {s t : State} {first new : List Event}
    {e : HostEnd} (h : AbortedAt done failing t new e) (hcalls : t.txCalls = s.txCalls + opCalls op.op)
    (hfirst : first.map shape = opShapes op.op) : AbortedAt (op :: done) failing s (first ++ new) e where
  session := h.session
  answer := h.answer
  fault := by rw [h.fault, hcalls, List.map_cons, callCount_cons, Nat.add_assoc s.txCalls]
  txErr := h.txErr
  txOpen := h.txOpen
  events := by simpa [hfirst] using h.events

/-- Every run of a host program of layer operations ends with all of them carried out and `Ok`, or aborts at one of them. -/
theorem runActions_ends {as : List HostAction} (hops : ∀ i ∈ actionOps as, LayerOp i) (fp : ProgSession) {s : State}
    (hr : ReadyTransport s) :
    ∃ e new, runActions as fp s = .next e ∧ e.state.hist = s.hist ++ new ∧
      ((e.answer = .ok ∧ e.session = some (sessionAfter as fp) ∧ ReadyTransport e.state ∧
          new.map shape = shapes (actionOps as)) ∨
        ∃ done failing rest, labelledOps as fp = done ++ failing :: rest ∧ AbortedAt done failing s new e) := by
  induction as generalizing fp s with
  | nil => exact ⟨_, [], rfl, (List.append_nil _).symm, .inl ⟨rfl, rfl, hr, rfl⟩⟩
  | cons a as ih =>
    cases a with
    | enter st => exact ih hops _ hr
    | setCursor off => exact ih hops _ hr
    | setErased off => exact ih hops _ hr
    | readClock now => exact ih hops _ hr
    | issue i =>
      obtain ⟨hi, hops⟩ := List.forall_mem_cons.mp hops
      obtain ⟨t, first, hissue, hhist, -, ⟨hdone, ht, -, hcalls, hfirst, -⟩ | ⟨hraised, herr, hopen, -, hfault, hfirst⟩⟩ :=
        hostIssue_layer hi hr
      · obtain ⟨e, new, hrun, hnew, hend⟩ := ih hops fp ht
        refine ⟨e, first ++ new, (runActions_done hissue hdone).trans hrun, ?_, ?_⟩
        · rw [hnew, hhist, List.append_assoc]
        · obtain ⟨hok, hfp, he, hshapes⟩ | ⟨done, failing, rest, hlabels, habort⟩ := hend
          · exact .inl ⟨hok, hfp, he, by rw [List.map_append, hfirst, hshapes, actionOps, shapes_cons]⟩
          · refine .inr ⟨{ step := fp.state, offset := errorOffset fp, op := i } :: done, failing, rest, ?_,
              habort.cons hcalls hfirst⟩
            rw [labelledOps, hlabels, List.cons_append]
      · refine ⟨_, first, runActions_raised hissue hraised, hhist, .inr ⟨[], _, labelledOps as fp, rfl, ?_⟩⟩
        exact ⟨⟨_, rfl, rfl⟩, rfl, hfault, herr, hopen, hfirst⟩

/-- Settles O53. -/
theorem programEndsOrAborts : Obligations.ProgramEndsOrAborts := by
  intro c dur n t0 fw s hr
  obtain ⟨e, new, hrun, hhist, ⟨hok, hfp, he, hshapes⟩ | ⟨done, failing, rest, hlabels, habort⟩⟩ :=
    runActions_ends (programActions_layerOps c dur n t0 fw) newProgSession hr
  · exact ⟨e, _, new, hrun, hfp, hhist, .inl ⟨hok, sessionAfter_programActions .., he, hshapes⟩⟩
  · obtain ⟨fp, hfp, haborted⟩ := habort.session
    exact ⟨e, fp, new, hrun, hfp, hhist, .inr ⟨done, failing, rest, e.state.fault, hlabels, habort.fault, habort.answer,
      haborted, rfl, habort.txErr, habort.txOpen, habort.events⟩⟩

end Sys2Proof.Safety
end

section
/-! SUPPORT. A whole session: the transport is acquired, the image is flashed, the transport is released
(43_flash_programmer.md R130, 70_reset_and_hazards.md R180, R183). -/

namespace Sys2Proof.Machine

/-- The state of a session whose `TXO` has acquired the transport (41_transport.md R91). -/
def State.acquired (s : State) : State := (s.latch 0x6#4 0#24 []).beginSession.finish

/-- The state of a session whose `TXC` has released the transport (41_transport.md R94). -/
def State.released (s : State) : State := (s.drainMoment.latch 0x7#4 0#24 []).release.finish

@[simp] theorem acquired_hist (s : State) : s.acquired.hist = s.hist ++ [.opened] := rfl
@[simp] theorem acquired_port (s : State) : s.acquired.port = s.port := rfl
@[simp] theorem acquired_env (s : State) : s.acquired.env = s.env := rfl

theorem State.acquired_ready (s : State) : Safety.ReadyTransport s.acquired := ⟨rfl, rfl, rfl⟩

@[simp] theorem released_txOpen (s : State) : s.released.txOpen = false := rfl
@[simp] theorem released_txBuf (s : State) : s.released.txBuf = [] := rfl
@[simp] theorem released_hist (s : State) : s.released.hist = s.hist ++ [.closed] := by simp [State.released]
@[simp] theorem released_port (s : State) : s.released.port = s.port := by simp [State.released]

theorem hostIssue_txo_of_closed {s : State} (h : s.txOpen = false) : hostIssue .txo s = .next s.acquired := by
  rw [hostIssue, drainMoment_of_closed h]
  exact exec_of_effect (openTransport_of_closed h)

theorem hostIssue_txo_of_open {s : State} (h : s.txOpen = true) :
    hostIssue .txo s = .next ((s.drainMoment.latch 0x6#4 0#24 []).raise .alreadyOpen) :=
  exec_of_effect (openTransport_of_open (by simpa using h))

theorem hostIssue_txc_of_open {s : State} (h : s.txOpen = true) : hostIssue .txc s = .next s.released :=
  exec_of_effect (closeTransport_of_open (by simpa using h))

section Session

variable {c : CommandConstants} {dur n t0 : Nat} {fw : List Byte} {s : State}

/-- A session that acquires the transport, and whose flashing leaves it open, releases it and answers as the flashing did. -/
theorem flashSession_of_closed {e : HostEnd} (hclosed : s.txOpen = false)
    (hflash : flash c dur n t0 fw s.acquired = .next e) (hopen : e.state.txOpen = true) :
    flashSession c dur n t0 fw s = .next { e with state := e.state.released } := by
  have hdone : s.acquired.result = .done := rfl
  simp [flashSession, hostIssue_txo_of_closed hclosed, hdone, hflash, releaseAfter, hostIssue_txc_of_open hopen]

/-- A session that finds the transport held stops there and leaves it held (log 15). -/
theorem flashSession_of_open (hopen : s.txOpen = true) :
    ∃ t, flashSession c dur n t0 fw s = .next { session := none, state := t, answer := .err (.notAcquired t.fault) } ∧
      t.fault.code = faultCode .alreadyOpen ∧ t.txOpen = true ∧ t.hist = s.hist := by
  refine ⟨(s.drainMoment.latch 0x6#4 0#24 []).raise .alreadyOpen, ?_, rfl, ?_, ?_⟩
  · simp [flashSession, hostIssue_txo_of_open hopen]
  · simpa using hopen
  · simp

end Session

/-- The operations that a host issues stay off the command port (log 20). -/
theorem hostIssue_port {i : Instr} {s t : State} (h : hostIssue i s = .next t) : t.port = s.port := by
  simpa using (exec_ends h).port

theorem runActions_port {as : List HostAction} {fp : ProgSession} {s : State} {e : HostEnd}
    (h : runActions as fp s = .next e) : e.state.port = s.port := by
  induction as generalizing fp s with
  | nil =>
    obtain rfl := Host.Outcome.next.inj h
    rfl
  | cons a as ih =>
    cases a with
    | enter st => exact ih h
    | setCursor off => exact ih h
    | setErased off => exact ih h
    | readClock now => exact ih h
    | issue i =>
      obtain ⟨t, ht⟩ := hostIssue_next i s
      rw [← hostIssue_port ht]
      rw [runActions, ht] at h
      rcases hresult : t.result with _ | _ | f <;> simp only [hresult] at h
      · obtain rfl := Host.Outcome.next.inj h
        rfl
      · exact ih h
      · obtain rfl := Host.Outcome.next.inj h
        rfl

end Sys2Proof.Machine

namespace Sys2Proof.Safety

open Sys2Proof.Machine

/-- Whether an event is a failure can be told without its call number. -/
@[simp] theorem isFail_shape (e : Event) : isFail (shape e) = isFail e := by cases e <;> rfl

theorem opShapes_not_isFail (i : Instr) : ∀ e ∈ opShapes i, isFail e = false := by
  cases i <;> simp [opShapes, isFail]

theorem shapes_not_isFail (ops : List Instr) : ∀ e ∈ shapes ops, isFail e = false := by
  intro e he
  obtain ⟨i, -, hi⟩ := List.mem_flatMap.mp he
  exact opShapes_not_isFail i e hi

/-- Operations that are carried out record no failure. -/
theorem CarriedOut.not_isFail {ops : List Instr} {s t : State} (h : CarriedOut ops s t)
    (hs : ∀ e ∈ s.hist, isFail e = false) : ∀ e ∈ t.hist, isFail e = false := by
  intro e he
  have hshape : shape e ∈ s.hist.map shape ++ Safety.shapes ops := h.shapes ▸ List.mem_map_of_mem he
  rw [← isFail_shape]
  obtain hbefore | hnew := List.mem_append.mp hshape
  · obtain ⟨e', he', hsame⟩ := List.mem_map.mp hbefore
    rw [← hsame, isFail_shape]
    exact hs e' he'
  · exact shapes_not_isFail ops _ hnew

theorem AbortedAt.exists_isFail {done : List LabelledOp} {failing : LabelledOp} {s : State} {new : List Event} {e : HostEnd}
    (h : AbortedAt done failing s new e) : ∃ ev ∈ new, isFail ev = true := by
  obtain ⟨kind, hkind⟩ : ∃ kind, .failed 0 kind ∈ new.map shape := by
    obtain hwrite | hflush := h.events
    · exact ⟨.write, by simp [hwrite]⟩
    · exact ⟨.flush, by simp [hflush]⟩
  obtain ⟨ev, hev, hshape⟩ := List.mem_map.mp hkind
  exact ⟨ev, hev, by rw [← isFail_shape, hshape]; rfl⟩

/-- Whatever the image and the environment are, `flash` leaves the transport open and the port alone, and it answers a
`TransportError` only after a failure (43_flash_programmer.md R130, R139). -/
theorem flash_ends (c : CommandConstants) (dur n t0 : Nat) (fw : List Byte) {s : State} (hr : ReadyTransport s) :
    ∃ e, flash c dur n t0 fw s = .next e ∧ e.state.txOpen = true ∧ e.state.port = s.port ∧
      ∀ step off record, e.answer = .err (.transportError step off record) → ∃ ev ∈ e.state.hist, isFail ev = true := by
  rcases lt_or_ge (2 ^ 24) fw.length with hlarge | hlen
  · exact ⟨_, flash_of_tooLarge c dur n t0 s hlarge, hr.txOpen, rfl, nofun⟩
  rcases hmagic : magicOk fw with _ | _
  · exact ⟨_, flash_of_notMagic c dur n t0 s hlen hmagic, hr.txOpen, rfl, nofun⟩
  obtain ⟨e, new, hrun, hhist, hend⟩ := runActions_ends (programActions_layerOps c dur n t0 fw) newProgSession hr
  refine ⟨e, (flash_of_admitted c dur n t0 s hlen hmagic).trans hrun, ?_⟩
  obtain ⟨hok, -, he, -⟩ | ⟨done, failing, rest, -, habort⟩ := hend
  · exact ⟨he.txOpen, runActions_port hrun, by simp [hok]⟩
  · obtain ⟨ev, hev, hfail⟩ := habort.exists_isFail
    exact ⟨habort.txOpen, runActions_port hrun, fun _ _ _ _ => ⟨ev, by simp [hhist, hev], hfail⟩⟩

/-- Settles O54: `flash` leaves the transport open, so `TXC` releases it, and a failure stays in the history. -/
theorem sessionReleasesOnEveryPath : Obligations.SessionReleasesOnEveryPath := by
  intro c dur n t0 fw s
  refine ⟨fun hclosed => ?_, fun hopen => ?_⟩
  · obtain ⟨e, hflash, hopen, hport, hfailure⟩ := flash_ends c dur n t0 fw s.acquired_ready
    refine ⟨_, flashSession_of_closed hclosed hflash hopen, rfl, rfl, ?_, ?_, fun step off record hanswer hs => ?_⟩
    · simp
    · simp [ReleasedOnExit, SessionView.after]
    · obtain ⟨ev, hev, hfail⟩ := hfailure step off record hanswer
      exact ⟨(released_port _).trans (hport.trans hs), rfl, ev, by simp [hev], hfail⟩
  · obtain ⟨t, hsession, hcode, ht, hhist⟩ := flashSession_of_open hopen
    exact ⟨_, t.fault, hsession, rfl, hcode, ht, hhist⟩

/-- Settles O55: the operations of `program` are carried out and record no failure, and neither does the release. -/
theorem faultFreeSessionEndsWell : Obligations.FaultFreeSessionEndsWell := by
  intro c dur n t0 fw s more hclosed hport hs hlen hmagic hoks
  obtain ⟨fp, t, hrun, -, ht⟩ := runProgram_carriedOut c dur n t0 fw s.acquired_ready hoks
  have hflash := (flash_of_admitted c dur n t0 s.acquired hlen hmagic).trans hrun
  have hacquired : ∀ e ∈ s.acquired.hist, isFail e = false := by
    simpa [or_imp, forall_and, isFail] using hs
  refine ⟨_, flashSession_of_closed hclosed hflash ht.ready.txOpen, rfl, ?_, rfl, rfl, ?_⟩
  · exact (released_port t).trans ((runActions_port hrun).trans hport)
  · simpa [or_imp, forall_and, isFail] using ht.not_isFail hacquired

end Sys2Proof.Safety
end

section
/-! SUPPORT. The faults (60_exceptions.md R154, R155, R158): every way an operation can end, what a refusal keeps, and where a step
stops. -/

namespace Sys2Proof.Machine

/-- The faults an operation can raise: not the two of the host, and not that of an illegal command word, which names no
operation (60_exceptions.md R154, R155). -/
abbrev OperationFault (f : FaultName) : Prop := f ≠ .invalidFirmware ∧ f ≠ .imageTooLarge ∧ f ≠ .illegalCommand

/-- Operation `i`, its operands latched in `s`, has ended in `t`: done; by a failure of the transport; refused with nothing but
the fault recorded; or, a `SEND`, refused by the transport after its frame was written to `RES` (60_exceptions.md R154,
41_transport.md R95). -/
inductive DoneFailedOrRefused (i : Instr) (s : State) : State → Prop
  | done {t : State} (h : t.result = .done) : DoneFailedOrRefused i s t
  | failed {t : State} (h : t.result = .raised .transportError) : DoneFailedOrRefused i s t
  | refused {f : FaultName} (hf : OperationFault f) : DoneFailedOrRefused i s (s.raise f)
  | sendRefused {addr : Addr} {payload : List Byte} {f : FaultName} (hi : i = .send addr payload)
      (hf : f = .notOpen ∨ f = .sessionFailed) : DoneFailedOrRefused i s ((s.encoded addr payload).raise f)

theorem operationFault_of_payloadFault {payload : List Byte} {f : FaultName} (h : payloadFault payload = some f) :
    OperationFault f := by
  unfold payloadFault at h
  split at h
  · cases h
    decide
  · split at h
    · cases h
      decide
    · cases h

section Ends

variable (i : Instr) (s : State)

theorem writeBytes_outcome (bytes : List Byte) : DoneFailedOrRefused i s (writeBytes bytes s) := by
  rcases writeBytes_cases bytes s with ⟨-, h⟩ | ⟨-, -, h⟩ | ⟨-, -, -, h⟩ | ⟨-, -, -, h⟩ <;> rw [h]
  · exact .refused (by decide)
  · exact .refused (by decide)
  · exact .done rfl
  · exact .failed rfl

theorem flushBytes_outcome : DoneFailedOrRefused i s (flushBytes s) := by
  rcases flushBytes_cases s with ⟨-, h⟩ | ⟨-, -, h⟩ | ⟨-, -, -, h⟩ | ⟨-, -, -, h⟩ <;> rw [h]
  · exact .refused (by decide)
  · exact .refused (by decide)
  · exact .done rfl
  · exact .failed rfl

theorem openTransport_outcome : DoneFailedOrRefused i s (openTransport s) := by
  rcases openTransport_cases s with ⟨-, h⟩ | ⟨-, h⟩ <;> rw [h]
  · exact .refused (by decide)
  · exact .done rfl

theorem closeTransport_outcome : DoneFailedOrRefused i s (closeTransport s) := by
  rcases closeTransport_cases s with ⟨-, h⟩ | ⟨-, h⟩ <;> rw [h]
  · exact .refused (by decide)
  · exact .done rfl

theorem encodeFrame_outcome (addr : Addr) (payload : List Byte) :
    DoneFailedOrRefused i s (encodeFrame addr payload s) := by
  rcases encodeFrame_cases addr payload s with ⟨f, hf, h⟩ | ⟨-, h⟩ <;> rw [h]
  · exact .refused (operationFault_of_payloadFault hf)
  · exact .done rfl

end Ends

theorem sendFrame_outcome (s : State) (addr : Addr) (payload : List Byte) :
    DoneFailedOrRefused (.send addr payload) s (sendFrame addr payload s) := by
  rcases sendFrame_cases addr payload s with
    ⟨f, hf, h⟩ | ⟨-, s1, rfl, ⟨-, h⟩ | ⟨-, -, h⟩ | ⟨-, -, -, h⟩ | ⟨-, -, -, -, h⟩ | ⟨-, -, -, -, h⟩⟩ <;> rw [h]
  · exact .refused (operationFault_of_payloadFault hf)
  · exact .sendRefused rfl (.inl rfl)
  · exact .sendRefused rfl (.inr rfl)
  · exact .failed rfl
  · exact .failed rfl
  · exact .done rfl

/-- Every operation is done, fails or is refused. -/
theorem effect_outcome (i : Instr) (s : State) : DoneFailedOrRefused i s (effect i s) := by
  cases i with
  | encb b => exact .done rfl
  | enct addr payload => exact encodeFrame_outcome _ s addr payload
  | send addr payload => exact sendFrame_outcome s addr payload
  | txw bytes => exact writeBytes_outcome _ s bytes
  | txf => exact flushBytes_outcome _ s
  | txo => exact openTransport_outcome _ s
  | txc => exact closeTransport_outcome _ s
  | dly ms => exact .done rfl

/-- An operation ends without fault or with a fault of an operation. -/
theorem DoneFailedOrRefused.result {i : Instr} {s t : State} (h : DoneFailedOrRefused i s t) :
    t.result = .done ∨ ∃ f, t.result = .raised f ∧ OperationFault f := by
  cases h with
  | done hdone => exact .inl hdone
  | failed hraised => exact .inr ⟨_, hraised, by decide⟩
  | refused hf => exact .inr ⟨_, rfl, hf⟩
  | sendRefused _ hf =>
    obtain rfl | rfl := hf
    · exact .inr ⟨_, rfl, by decide⟩
    · exact .inr ⟨_, rfl, by decide⟩

/-- A step stops with a fault at a broken operand stream, and goes on everywhere else (30_encoding.md R66; log 4, log 5). -/
theorem step_broken_or_next (s : State) :
    (∃ how r, decodeBeats s.port = .broken how ∧ step s = .fault r) ∨
    ((∀ how, decodeBeats s.port ≠ .broken how) ∧ ∃ t, step s = .next t) := by
  unfold step
  cases decodeBeats s.port with
  | instr i rest => exact .inr ⟨nofun, exec_next i _⟩
  | illegal why w rest => exact .inr ⟨nofun, _, rfl⟩
  | stray rest => exact .inr ⟨nofun, _, rfl⟩
  | awaiting => exact .inr ⟨nofun, _, rfl⟩
  | broken how => cases how <;> exact .inl ⟨_, _, rfl, rfl⟩

/-- Settles O27: every operation is done, fails or is refused, and a step goes on unless the operand stream is broken. -/
theorem onlyABrokenStreamStops : Obligations.OnlyABrokenStreamStops := by
  refine ⟨fun i s => ⟨_, exec_eq_effect i s, (effect_outcome i _).result⟩, fun s => ?_, fun s r => ?_⟩
  · obtain ⟨how, r, hbroken, hfault⟩ | ⟨hwhole, hnext⟩ := step_broken_or_next s
    · simp [hbroken, hfault]
    · simp [hwhole, hnext]
  · obtain ⟨_, _, -, hfault⟩ | ⟨-, _, hnext⟩ := step_broken_or_next s
    · simp [hfault]
    · simp [hnext]

/-- Settles O28: of the four ways to end only the two refusals raise another fault than `TransportError`, and the refusal of a
`SEND` by the transport has written its frame. -/
theorem refusalsKeepTheTransport : Obligations.RefusalsKeepTheTransport := by
  intro i s t f hexec hraised hne
  have hend : DoneFailedOrRefused i (s.latch i.opCode i.argField i.operands) t :=
    eq_effect_of_exec hexec ▸ effect_outcome i _
  cases hend with
  | done hdone => cases hdone.symm.trans hraised
  | failed hfailed =>
    cases hfailed.symm.trans hraised
    exact absurd rfl hne
  | refused _ => exact ⟨⟨rfl, rfl, rfl, rfl, rfl, rfl⟩, rfl, rfl, .inr rfl⟩
  | sendRefused hi hf =>
    cases hraised
    exact ⟨⟨rfl, rfl, rfl, rfl, rfl, rfl⟩, rfl, rfl, .inl ⟨_, _, hi, hf, rfl⟩⟩

/-- Settles O36: the table of the codes, read off row by row. -/
theorem faultNumbers : Obligations.FaultNumbers :=
  ⟨rfl, rfl, rfl, rfl, rfl, rfl, rfl, rfl, rfl, rfl⟩

end Sys2Proof.Machine
end

section
/-! SUPPORT. What an operation of the command layer adds to the history of any state, and that it keeps every frame flushed and
marked (70_reset_and_hazards.md R172, R181). -/

namespace Sys2Proof.Safety

open Sys2Proof.Machine

theorem FlushAfterEveryFrame.append {h g : List Event} (hh : FlushAfterEveryFrame h) (hg : FlushAfterEveryFrame g) :
    FlushAfterEveryFrame (h ++ g) := by
  intro pre k bytes post heq
  obtain ⟨mid, rfl, hmid⟩ | ⟨mid, rfl, hmid⟩ := List.append_eq_append_iff.mp heq
  · exact hg mid k bytes post hmid
  · cases mid with
    | nil => exact hg [] k bytes post hmid.symm
    | cons e mid =>
      obtain ⟨rfl, rfl⟩ := List.cons.inj hmid
      obtain ⟨rest, rfl⟩ | ⟨j, rest, rfl⟩ := hh pre k bytes mid rfl
      · exact .inl ⟨rest ++ g, rfl⟩
      · exact .inr ⟨j, rest ++ g, rfl⟩

theorem FramesMarked.append {h g : List Event} (hh : FramesMarked h) (hg : FramesMarked g) : FramesMarked (h ++ g) :=
  fun k bytes hmem => (List.mem_append.mp hmem).elim (hh k bytes) (hg k bytes)

/-- These events keep both duties of a frame: it is flushed at once, or its flush fails, and it is marked. -/
def FlushedAndMarked (events : List Event) : Prop := FlushAfterEveryFrame events ∧ FramesMarked events

theorem FlushedAndMarked.append {h g : List Event} (hh : FlushedAndMarked h) (hg : FlushedAndMarked g) :
    FlushedAndMarked (h ++ g) :=
  ⟨hh.1.append hg.1, hh.2.append hg.2⟩

/-- Events without a write hold no frame. -/
theorem flushedAndMarked_of_no_write {events : List Event} (h : ∀ e ∈ events, isWrite e = false) :
    FlushedAndMarked events := by
  have hno (k : Nat) (bytes : List Byte) : .write k bytes ∉ events := fun hmem => nomatch h _ hmem
  refine ⟨?_, fun k bytes hmem => absurd hmem (hno k bytes)⟩
  rintro pre k bytes post rfl
  exact absurd (by simp) (hno k bytes)

/-- A well-formed frame, then its flush or the failure of that. -/
theorem flushedAndMarked_frame (k : Nat) {frame : List Byte} {e : Event} (hframe : isWireFrame Config.line frame = true)
    (he : e = .flush ∨ ∃ j, e = .failed j .flush) : FlushedAndMarked [.write k frame, e] := by
  refine ⟨fun pre k' bytes post heq => ?_, fun k' bytes hmem => ?_⟩
  · rcases pre with _ | ⟨_, _ | ⟨_, pre⟩⟩
    · obtain ⟨-, rfl⟩ := List.cons.inj heq
      obtain rfl | ⟨j, rfl⟩ := he
      · exact .inl ⟨[], rfl⟩
      · exact .inr ⟨j, [], rfl⟩
    · obtain rfl | ⟨j, rfl⟩ := he <;> simp at heq
    · simp at heq
  · obtain ⟨-, rfl⟩ : k' = k ∧ bytes = frame := by obtain rfl | ⟨j, rfl⟩ := he <;> simpa using hmem
    exact hframe

/-- Whatever the state of the transport is, an operation of the layer adds nothing, a failed write, a frame with its flush or the
failure of that, or a wait (41_transport.md R95, R99). -/
theorem hostIssue_flushedAndMarked {i : Instr} {s t : State} (hi : LayerOp i) (h : hostIssue i s = .next t) :
    ∃ new, t.hist = s.hist ++ new ∧ FlushedAndMarked new := by
  obtain rfl := eq_effect_of_exec h
  have hlatch : (s.drainMoment.latch i.opCode i.argField i.operands).hist = s.hist := by simp
  rw [← hlatch]
  cases i with
  | send addr payload =>
    have hframe := (wireFramesAreTheEncodings Config.line Config.line_valid _).mpr ⟨addr, payload, hi.1, rfl⟩
    rw [effect]
    rcases sendFrame_cases addr payload _ with
      ⟨f, -, e⟩ | ⟨-, s1, rfl, ⟨-, e⟩ | ⟨-, -, e⟩ | ⟨-, -, -, e⟩ | ⟨-, -, -, -, e⟩ | ⟨-, -, -, -, e⟩⟩ <;> rw [e]
    · exact ⟨[], (List.append_nil _).symm, flushedAndMarked_of_no_write (by simp)⟩
    · exact ⟨[], (List.append_nil _).symm, flushedAndMarked_of_no_write (by simp)⟩
    · exact ⟨[], (List.append_nil _).symm, flushedAndMarked_of_no_write (by simp)⟩
    · exact ⟨[.failed _ .write], rfl, flushedAndMarked_of_no_write (by simp [isWrite])⟩
    · exact ⟨[.write _ _, .failed _ .flush], List.append_assoc _ _ _, flushedAndMarked_frame _ hframe (.inr ⟨_, rfl⟩)⟩
    · exact ⟨[.write _ _, .flush], List.append_assoc _ _ _, flushedAndMarked_frame _ hframe (.inl rfl)⟩
  | dly ms => exact ⟨[.wait ms.toNat], rfl, flushedAndMarked_of_no_write (by simp [isWrite])⟩
  | encb _ => exact hi.elim
  | enct _ _ => exact hi.elim
  | txw _ => exact hi.elim
  | txf => exact hi.elim
  | txo => exact hi.elim
  | txc => exact hi.elim

/-- The first operation of a sequence is issued, and then the rest unless it has raised a fault. -/
theorem issueAll_cons_cases {i : Instr} {ops : List Instr} {s t : State} (h : issueAll (i :: ops) s = .next t) :
    ∃ u, hostIssue i s = .next u ∧ (u = t ∨ issueAll ops u = .next t) := by
  obtain ⟨u, hu⟩ := hostIssue_next i s
  refine ⟨u, hu, ?_⟩
  rw [issueAll, hu] at h
  rcases hresult : u.result with _ | _ | f <;> simp only [hresult] at h
  · exact .inl (Host.Outcome.next.inj h)
  · exact .inr h
  · exact .inl (Host.Outcome.next.inj h)

theorem issueAll_flushedAndMarked {ops : List Instr} {s t : State} (hops : ∀ i ∈ ops, LayerOp i)
    (hs : FlushedAndMarked s.hist) (h : issueAll ops s = .next t) : FlushedAndMarked t.hist := by
  induction ops generalizing s with
  | nil =>
    obtain rfl := Host.Outcome.next.inj h
    exact hs
  | cons i ops ih =>
    obtain ⟨hi, hops⟩ := List.forall_mem_cons.mp hops
    obtain ⟨u, hissue, hrest⟩ := issueAll_cons_cases h
    obtain ⟨new, hhist, hnew⟩ := hostIssue_flushedAndMarked hi hissue
    have hu : FlushedAndMarked u.hist := hhist ▸ hs.append hnew
    obtain rfl | hrest := hrest
    · exact hu
    · exact ih hops hu hrest

/-- Settles O45: what each operation adds keeps both duties, and so does the sequence. -/
theorem layerFramesAreFlushedAndMarked : Obligations.LayerFramesAreFlushedAndMarked :=
  fun _ _ _ hops hflush hmark h => issueAll_flushedAndMarked hops ⟨hflush, hmark⟩ h

end Sys2Proof.Safety
end

section
/-! SUPPORT. The blocks of `program` in order, and where among them a frame of the history stands: what was carried out before it,
and what follows it up to the failure. -/

namespace Sys2Proof.Safety

open Sys2Proof.Machine

/-! Lists of blocks. -/

/-- An element of two lists put together stands in the first or in the second. -/
theorem append_eq_append_cons {α : Type} {l m before after : List α} {x : α} (h : l ++ m = before ++ x :: after) :
    (∃ mid, l = before ++ x :: mid ∧ after = mid ++ m) ∨ ∃ mid, before = l ++ mid ∧ m = mid ++ x :: after := by
  obtain ⟨mid, rfl, hmid⟩ | ⟨mid, rfl, hmid⟩ := List.append_eq_append_iff.mp h
  · exact .inr ⟨mid, rfl, hmid⟩
  · cases mid with
    | nil => exact .inr ⟨[], by simp, hmid.symm⟩
    | cons y mid =>
      obtain ⟨rfl, rfl⟩ := List.cons.inj hmid
      exact .inl ⟨mid, rfl, rfl⟩

/-- An operation of a list of blocks stands in one of them. -/
theorem exists_block {α : Type} {blocks : List (List α)} {before after : List α} {x : α}
    (h : blocks.flatten = before ++ x :: after) :
    ∃ earlier front back later, blocks = earlier ++ (front ++ x :: back) :: later ∧
      before = earlier.flatten ++ front ∧ after = back ++ later.flatten := by
  obtain ⟨earlier, rest, rfl, rfl, hrest⟩ | ⟨earlier, front, y, back, later, rfl, rfl, hx⟩ := List.flatten_eq_append_iff.mp h
  · obtain ⟨empty, back, later, rfl, hempty, rfl⟩ := List.flatten_eq_cons_iff.mp hrest.symm
    exact ⟨earlier ++ empty, [], back, later, by simp, by simp [List.flatten_eq_nil_iff.mpr hempty], rfl⟩
  · obtain ⟨rfl, rfl⟩ := List.cons.inj hx
    exact ⟨earlier, front, back, later, rfl, rfl, rfl⟩

/-- The blocks of turn `k` of the loop (43_flash_programmer.md R136). -/
def turnBlocks (c : CommandConstants) (fw : List Byte) (k : Nat) : List (List Instr) :=
  (if k % 16 = 0 then [sectorErase c (BitVec.ofNat 24 (256 * k))] else []) ++
  [pageProgram c (BitVec.ofNat 24 (256 * k)) (chunkAt fw (256 * k))]

theorem turnBlocks_flatten (c : CommandConstants) (fw : List Byte) (k : Nat) :
    (turnBlocks c fw k).flatten = turnOps c fw k := by
  rw [turnBlocks, turnOps]
  split <;> simp [chunkAt, Config.page]

/-- The blocks of `program` after the wake and before the chip reset (43_flash_programmer.md R135, R136). -/
def flashBlocks (c : CommandConstants) (fw : List Byte) : List (List Instr) :=
  (if fw = [] then [] else [clearProtectStatus c, clearProtectStatus c]) ++
  (List.range (pageCount fw)).flatMap (turnBlocks c fw)

theorem flashBlocks_flatten (c : CommandConstants) (fw : List Byte) :
    (flashBlocks c fw).flatten = statusClears c fw ++ (List.range (pageCount fw)).flatMap (turnOps c fw) := by
  have hturns (l : List Nat) : (l.flatMap (turnBlocks c fw)).flatten = l.flatMap (turnOps c fw) := by
    induction l with
    | nil => rfl
    | cons k l ih => simp [turnBlocks_flatten, ih]
  rw [flashBlocks, List.flatten_append, hturns, statusClears, apply_ite List.flatten]
  simp

/-- What holds of a status clear, of every erase and of every program of 1 to 256 bytes holds of every block of the flashing. -/
theorem flashBlocks_induct {c : CommandConstants} {P : List Instr → Prop} (clear : P (clearProtectStatus c))
    (erase : ∀ a, P (sectorErase c a))
    (page : ∀ a (data : List Byte), data ≠ [] → data.length ≤ Config.page → P (pageProgram c a data)) (fw : List Byte) :
    ∀ b ∈ flashBlocks c fw, P b := by
  intro b hb
  obtain hclear | hturn := List.mem_append.mp hb
  · split at hclear
    · simp at hclear
    · obtain rfl : b = clearProtectStatus c := by simpa using hclear
      exact clear
  · obtain ⟨k, hk, hb⟩ := List.mem_flatMap.mp hturn
    have hoff : 256 * k < fw.length := by
      rw [List.mem_range, pageCount] at hk
      omega
    obtain herase | hpage := List.mem_append.mp hb
    · split at herase
      · exact List.mem_singleton.mp herase ▸ erase _
      · simp at herase
    · exact List.mem_singleton.mp hpage ▸ page _ _ (chunkAt_bounds hoff).1 (chunkAt_bounds hoff).2

/-- The blocks of `program` before the wake: the halt loop and the bus clock (43_flash_programmer.md R133, R134). -/
def seizeBlocks (c : CommandConstants) (n : Nat) : List (List Instr) := List.replicate n (haltTurn c) ++ [configureBusClock c]

theorem seizeBlocks_flatten (c : CommandConstants) (dur n : Nat) :
    (seizeBlocks c n).flatten = forceHalt c dur n ++ configureBusClock c := by
  have hhalt : (List.replicate n (haltTurn c)).flatten = forceHalt c dur n := rfl
  simp [seizeBlocks, hhalt]

/-- The blocks of `program` (43_flash_programmer.md R138). -/
def programBlocks (c : CommandConstants) (n : Nat) (fw : List Byte) : List (List Instr) :=
  seizeBlocks c n ++ wake c :: flashBlocks c fw ++ [chipReset c]

theorem programBlocks_flatten (c : CommandConstants) (dur n t0 : Nat) (fw : List Byte) :
    (programBlocks c n fw).flatten = actionOps (programActions c dur n t0 fw) := by
  simp [programBlocks, actionOps_programActions, flashBlocks_flatten, seizeBlocks_flatten c dur]

theorem programBlocks_block (c : CommandConstants) (n : Nat) (fw : List Byte) :
    ∀ b ∈ programBlocks c n fw, ProgramBlock c b := by
  have hflash := flashBlocks_induct (P := ProgramBlock c) .clearProtectStatus .sectorErase (fun a _ => .pageProgram a) fw
  simp only [programBlocks, seizeBlocks, List.mem_append, List.mem_cons, List.not_mem_nil, or_false]
  rintro b (((hhalt | rfl) | rfl | hb) | rfl)
  · exact List.eq_of_mem_replicate hhalt ▸ .haltTurn
  · exact .configureBusClock
  · exact .wake
  · exact hflash b hb
  · exact .chipReset

/-! Histories. -/

/-- What is carried out first can be taken off the events and off what was expected. -/
theorem CutShort.of_append {l expected events : List Event} (hl : ∀ e ∈ l, isFail e = false)
    (h : CutShort (l ++ expected) (l ++ events)) : CutShort expected events := by
  generalize hevents : l ++ events = all at h
  cases h with
  | whole => exact List.append_cancel_left hevents ▸ .whole
  | @cut begun hbegun kind =>
    obtain rfl | ⟨some, last, rfl⟩ := List.eq_nil_or_concat' events
    · have hmem : .failed 0 kind ∈ l := by rw [← List.append_nil l, hevents]; simp
      cases hl _ hmem
    · rw [← List.append_assoc] at hevents
      obtain ⟨rfl, hlast⟩ := List.append_inj' hevents rfl
      rw [hlast]
      exact .cut ((List.prefix_append_right_inj l).mp hbegun) kind

/-- What was expected next follows, whole or up to the failure. -/
theorem CutShort.follows {expected more events : List Event} (h : CutShort (expected ++ more) events) :
    Follows events expected := by
  cases h with
  | whole => exact follows_append _ _
  | @cut begun hbegun kind =>
    obtain hlong | hshort := List.prefix_or_prefix_of_prefix (List.prefix_append expected more) hbegun
    · exact .inl (hlong.trans (List.prefix_append _ _))
    · exact follows_cut hshort kind []

/-- A wait that was due next is kept: either it was made, or nothing is written any more. -/
theorem CutShort.waits {ms : Nat} {more events : List Event} (h : CutShort (.wait ms :: more) events) :
    WaitsBeforeWrite events ms := by
  cases h with
  | whole => exact fun _ => Nat.le_add_right _ _
  | @cut begun hbegun kind =>
    obtain rfl | ⟨begun, rfl, -⟩ := List.prefix_cons_iff.mp hbegun
    · nofun
    · exact fun _ => Nat.le_add_right _ _

/-- Frames of payloads that are not empty tell their address and their payload (30_encoding.md R69). -/
theorem encTransaction_injective {a b : Addr} {p q : List Byte} (hp : p ≠ [])
    (h : encTransaction Config.line a p = encTransaction Config.line b q) : a = b ∧ p = q := by
  have hlen : p.length = q.length := by simpa using congrArg List.length h
  have hq : q ≠ [] := List.ne_nil_of_length_pos (hlen ▸ List.length_pos_iff.mpr hp)
  have hdecode := frameDecodesBack Config.line Config.line_valid a p hp
  rw [h, frameDecodesBack Config.line Config.line_valid b q hq] at hdecode
  simpa [eq_comm] using hdecode

/-- The events are those of the blocks' operations, all of the command layer, up to the failure that cuts them short. -/
structure Records (blocks : List (List Instr)) (events : List Event) : Prop where
  layer : ∀ i ∈ blocks.flatten, LayerOp i
  cut : CutShort (shapes blocks.flatten) (events.map shape)

theorem runProgram_records (c : CommandConstants) (dur n t0 : Nat) (fw : List Byte) {s : State} (hr : ReadyTransport s) :
    ∃ e new, runProgram c dur n t0 fw s = .next e ∧ e.state.hist = s.hist ++ new ∧ Records (programBlocks c n fw) new := by
  obtain ⟨e, new, hrun, hhist, hcut⟩ := runProgram_events c dur n t0 fw hr
  refine ⟨e, new, hrun, hhist, ?_, ?_⟩ <;> rw [programBlocks_flatten c dur n t0]
  · exact programActions_layerOps c dur n t0 fw
  · exact hcut

/-- In the blocks stands operation `i`, behind `front` in a block after the blocks `earlier`; the events before its own are
`before`, those after them `after`. -/
structure PlacedAt (blocks : List (List Instr)) (i : Instr) (before after : List Event) (earlier : List (List Instr))
    (front back : List Instr) (later : List (List Instr)) : Prop where
  blocks_eq : blocks = earlier ++ (front ++ i :: back) :: later
  before_eq : shapes (earlier.flatten ++ front) = before
  after_cut : CutShort (shapes (back ++ later.flatten)) after

theorem PlacedAt.block {blocks : List (List Instr)} {i : Instr} {before after : List Event} {earlier later : List (List Instr)}
    {front back : List Instr} (h : PlacedAt blocks i before after earlier front back later) : front ++ i :: back ∈ blocks := by
  simp [h.blocks_eq]

/-- A frame of the history is that of the same `SEND` in the blocks; `lead` and `tail` are what is known of the operations next
to it. -/
theorem Records.placed {blocks : List (List Instr)} {events pre post : List Event} {lead tail : List Instr} {addr : Addr}
    {payload : List Byte} (hr : Records blocks events) (h : Occurs events pre (lead ++ .send addr payload :: tail) post) :
    ∃ earlier front back later,
      PlacedAt blocks (.send addr payload) (pre ++ shapes lead) (shapes tail ++ post) earlier front back later := by
  obtain ⟨hlayer, hcut⟩ := hr
  have hevents : events.map shape =
      pre ++ shapes lead ++ ([.write 0 (encTransaction Config.line addr payload), .flush] ++ (shapes tail ++ post)) := by
    rw [h]; simp [opShapes]
  obtain ⟨before, addr', payload', after, hops, hbefore, hframe⟩ := exists_send_of_write hlayer
    (hcut.prefix_expected (l := pre ++ shapes lead) rfl ⟨.flush :: (shapes tail ++ post), by rw [hevents]; simp; rfl⟩)
  have hsend : LayerOp (.send addr' payload') := hlayer _ (by simp [hops])
  obtain ⟨rfl, rfl⟩ := encTransaction_injective hsend.1 hframe
  obtain ⟨earlier, front, back, later, rfl, rfl, rfl⟩ := exists_block hops
  refine ⟨earlier, front, back, later, rfl, hbefore,
    CutShort.of_append (l := shapes (earlier.flatten ++ front ++ [.send addr' payload'])) ?_ ?_⟩
  · exact shapes_not_isFail _
  · rw [hevents, ← hbefore] at hcut
    simpa [opShapes] using hcut

end Sys2Proof.Safety
end

section
/-! SUPPORT. Where in a block of `program` the payload of a flash command stands: a payload of 2 bytes is that of a write-enable or
of the wake, and the length of a longer one tells which mutation it belongs to, whatever the constants are. -/

namespace Sys2Proof.Safety

open Sys2Proof.Machine

/-- The operations of a mutation after its payload of `len` bytes: after a burst, the only payload above 4 bytes, the FIFO flag is
cleared, and select is given up (42_command_layer.md R115 to R117). -/
def leadOut (c : CommandConstants) (len : Nat) : List Instr :=
  if len ≤ 4 then csDeassert c else Instr.send c.aSwsid [c.vFifoOff] :: csDeassert c

/-- The delay after the mutation with a payload of `len` bytes: a status write has 3, an erase 4 (42_command_layer.md R115 to
R117). -/
def settleTime (len : Nat) : Addr := if len = 3 then Config.tStatus else if len = 4 then Config.tErase else Config.tProg

/-- The commands of a block before the one with a payload of `len` bytes: only a mutation has one, its write-enable. -/
def enabling (c : CommandConstants) (len : Nat) : List (List Instr) := if len = 2 then [] else [writeEnable c]

/-- The payload of a burst (42_command_layer.md R117). -/
def burstPayload (c : CommandConstants) (a : Addr) (data : List Byte) : List Byte := [c.opPp] ++ flashAddress a ++ data

@[simp] theorem burstPayload_length (c : CommandConstants) (a : Addr) (data : List Byte) :
    (burstPayload c a data).length = data.length + 4 := by
  simp [burstPayload, flashAddress]

theorem flashAddress_injective : Function.Injective flashAddress := fun a b h => by
  obtain ⟨hhigh, hmid, hlow⟩ : a.extractLsb' 16 8 = b.extractLsb' 16 8 ∧ a.extractLsb' 8 8 = b.extractLsb' 8 8 ∧
      a.extractLsb' 0 8 = b.extractLsb' 0 8 := by simpa [flashAddress] using h
  rw [← addressBytes_append a, hhigh, hmid, hlow, addressBytes_append]

section Burst

variable (c : CommandConstants) {data : List Byte} (hne : data ≠ [])
include hne

theorem burst_long (a : Addr) : 5 ≤ (burstPayload c a data).length := by
  have := List.length_pos_iff.mpr hne
  rw [burstPayload_length]
  omega

theorem leadIn_burst (a : Addr) :
    leadIn c (burstPayload c a data).length = csAssert c ++ [Instr.send c.aSwsid [c.vFifoOn]] :=
  if_neg (Nat.not_le_of_lt (burst_long c hne a))

theorem leadOut_burst (a : Addr) :
    leadOut c (burstPayload c a data).length = Instr.send c.aSwsid [c.vFifoOff] :: csDeassert c :=
  if_neg (Nat.not_le_of_lt (burst_long c hne a))

theorem settleTime_burst (a : Addr) : settleTime (burstPayload c a data).length = Config.tProg := by
  have := burst_long c hne a
  rw [settleTime, if_neg (by omega), if_neg (by omega)]

theorem programCommand_eq (a : Addr) :
    programCommand c a data = leadIn c (burstPayload c a data).length ++
      .send c.aFdata (burstPayload c a data) :: leadOut c (burstPayload c a data).length := by
  rw [leadIn_burst c hne, leadOut_burst c hne, List.append_assoc]
  rfl

theorem pageProgram_eq (a : Addr) :
    pageProgram c a data = writeEnable c ++ leadIn c (burstPayload c a data).length ++
      .send c.aFdata (burstPayload c a data) ::
        (leadOut c (burstPayload c a data).length ++ [.dly (settleTime (burstPayload c a data).length)]) := by
  rw [pageProgram, programCommand_eq c hne, settleTime_burst c hne]
  simp

end Burst

/-- A payload of a length that no other operation of its list has stands at one place in it. -/
theorem append_send_inj {front back front' back' : List Instr} {addr addr' : Addr} {payload payload' : List Byte}
    (hfront : ∀ i ∈ front, i.operands.length ≠ payload'.length) (hback : ∀ i ∈ back, i.operands.length ≠ payload'.length)
    (h : front ++ .send addr payload :: back = front' ++ .send addr' payload' :: back') :
    front = front' ∧ payload = payload' ∧ back = back' := by
  obtain ⟨hf, hsend, hb⟩ := (List.append_cons_inj_of_notMem (fun hmem => hfront _ hmem rfl)
    (fun hmem => hback _ hmem rfl)).mp h
  exact ⟨hf, (Instr.send.inj hsend).2, hb⟩

/-- The payload of a flash command stands in its block: behind the command that goes before it, if one does, and its own lead-in,
and a mutation's before its own lead-out and delay. -/
structure CommandParts (c : CommandConstants) (front : List Instr) (len : Nat) (back : List Instr) : Prop where
  front_eq : front = (enabling c len).flatten ++ leadIn c len
  back_eq : 3 ≤ len → back = leadOut c len ++ [.dly (settleTime len)]

theorem CommandParts.of_mutation {c : CommandConstants} {front back : List Instr} {a addr : Addr} {p payload : List Byte}
    (hp : 3 ≤ p.length) (hlen : 2 ≤ payload.length)
    (h : writeEnable c ++ leadIn c p.length ++ .send a p :: (leadOut c p.length ++ [.dly (settleTime p.length)]) =
      front ++ .send addr payload :: back) : CommandParts c front payload.length back := by
  have hlead : ∀ i ∈ leadIn c p.length, i.operands.length < 2 := by
    rw [leadIn]
    split <;> simp [csAssert, Instr.operands]
  have htail : ∀ i ∈ leadOut c p.length ++ [.dly (settleTime p.length)], i.operands.length < 2 := by
    rw [leadOut]
    split <;> simp [csDeassert, Instr.operands]
  obtain htwo | hmore := Nat.eq_or_lt_of_le hlen
  · have hafter : ∀ i ∈ leadIn c p.length ++ .send a p :: (leadOut c p.length ++ [.dly (settleTime p.length)]),
        i.operands.length ≠ payload.length := by
      refine List.forall_mem_append.mpr ⟨fun i hi => ?_, List.forall_mem_cons.mpr ⟨?_, fun i hi => ?_⟩⟩
      · have := hlead i hi; omega
      · rw [Instr.operands]; omega
      · have := htail i hi; omega
    rw [List.append_assoc] at h
    obtain ⟨rfl, -, -⟩ := append_send_inj (front := csAssert c) (by simp [csAssert, Instr.operands, ← htwo]) hafter h
    exact ⟨by rw [← htwo]; rfl, fun hthree => by omega⟩
  · have hbefore : ∀ i ∈ writeEnable c ++ leadIn c p.length, i.operands.length ≠ payload.length := by
      refine List.forall_mem_append.mpr ⟨?_, fun i hi => ?_⟩
      · simp [writeEnable, issueOpcode, csAssert, Instr.operands]; omega
      · have := hlead i hi; omega
    obtain ⟨rfl, rfl, rfl⟩ := append_send_inj hbefore (fun i hi => by have := htail i hi; omega) h
    exact ⟨by rw [enabling, if_neg (by omega)]; simp, fun _ => rfl⟩

theorem wake_short (c : CommandConstants) : ∀ i ∈ wake c, i.operands.length ≤ 2 := by
  simp [wake, issueOpcode, csAssert, Instr.operands]

theorem programBlock_commandParts {c : CommandConstants} {front back : List Instr} {addr : Addr} {payload : List Byte}
    (h : ProgramBlock c (front ++ .send addr payload :: back)) (hlen : 2 ≤ payload.length) :
    CommandParts c front payload.length back := by
  generalize hb : front ++ .send addr payload :: back = b at h
  have hmem : .send addr payload ∈ b := by simp [← hb]
  have hshort (hs : ∀ i ∈ b, i.operands.length < 2) : CommandParts c front payload.length back :=
    absurd (hs _ hmem) (Nat.not_lt_of_le hlen)
  cases h with
  | haltTurn => exact hshort (by simp [haltTurn, chipReset, cpuStop, Instr.operands])
  | configureBusClock => exact hshort (by simp [configureBusClock, cpuStop, Instr.operands])
  | chipReset => exact hshort (by simp [chipReset, Instr.operands])
  | wake =>
    have htwo : payload.length = 2 := Nat.le_antisymm (wake_short c _ hmem) hlen
    obtain ⟨rfl, -, rfl⟩ := append_send_inj (front := csAssert c) (back := [])
      (by simp [csAssert, Instr.operands, htwo]) (by simp) hb.symm
    exact ⟨by rw [htwo]; rfl, fun hthree => by omega⟩
  | clearProtectStatus => exact .of_mutation (p := [c.opWrsr, c.srUnlock, 0x00]) (Nat.le_refl 3) hlen hb.symm
  | sectorErase a => exact .of_mutation (p := c.opSe :: flashAddress a) (Nat.le_succ 3) hlen hb.symm
  | @pageProgram a data hne hpage =>
    rw [pageProgram_eq c hne] at hb
    exact .of_mutation (by have := burst_long c hne a; omega) hlen hb.symm

end Sys2Proof.Safety
end

section
/-! SUPPORT. FIFO mode brackets every burst (70_reset_and_hazards.md R177), and the fixed delays are kept (R174). -/

namespace Sys2Proof.Safety

open Sys2Proof.Machine

section Duties

variable {c : CommandConstants} {n : Nat} {fw : List Byte} {new pre post : List Event}

/-- A flash command of the history, known with the operations `lead` before its payload and `tail` after it, in its block. -/
theorem Records.command (hr : Records (programBlocks c n fw) new) {lead tail : List Instr} {addr : Addr} {payload : List Byte}
    (h : Occurs new pre (lead ++ .send addr payload :: tail) post) (hlen : 2 ≤ payload.length) :
    ∃ earlier front back later, CommandParts c front payload.length back ∧
      PlacedAt (programBlocks c n fw) (.send addr payload) (pre ++ shapes lead) (shapes tail ++ post) earlier front back later := by
  obtain ⟨earlier, front, back, later, hplaced⟩ := hr.placed h
  have hparts := programBlock_commandParts (programBlocks_block c n fw _ hplaced.block) hlen
  exact ⟨earlier, front, back, later, hparts, hplaced⟩

/-- What follows the payload of a mutation: its lead-out and then its delay. -/
theorem Records.after_mutation (hr : Records (programBlocks c n fw) new) {lead tail : List Instr} {addr : Addr}
    {payload : List Byte} (h : Occurs new pre (lead ++ .send addr payload :: tail) post) (hlen : 3 ≤ payload.length) :
    ∃ more, CutShort (shapes (leadOut c payload.length) ++ .wait (settleTime payload.length).toNat :: more)
      (shapes tail ++ post) := by
  obtain ⟨earlier, front, back, later, hparts, hplaced⟩ := hr.command h (Nat.le_of_succ_le hlen)
  refine ⟨shapes later.flatten, ?_⟩
  have hcut := hplaced.after_cut
  rw [hparts.back_eq hlen] at hcut
  simpa [opShapes] using hcut

/-- A delay that is due after operations is kept after them. -/
theorem CutShort.waits_after {ops : List Instr} {ms : Nat} {more events : List Event}
    (h : CutShort (shapes ops ++ .wait ms :: more) (shapes ops ++ events)) : WaitsBeforeWrite events ms :=
  (h.of_append (shapes_not_isFail ops)).waits

theorem Records.waits_after_mutation (hr : Records (programBlocks c n fw) new) {lead : List Instr} {addr : Addr}
    {payload : List Byte} (h : Occurs new pre (lead ++ .send addr payload :: leadOut c payload.length) post)
    (hlen : 3 ≤ payload.length) : WaitsBeforeWrite post (settleTime payload.length).toNat := by
  obtain ⟨more, hcut⟩ := hr.after_mutation h hlen
  exact hcut.waits_after

/-- `program` makes no page program of no bytes: what would be its payload is an erase's, with no FIFO flag before it. -/
theorem Records.data_ne_nil (hr : Records (programBlocks c n fw) new) {a : Addr} {data : List Byte}
    (h : Occurs new pre (programCommand c a data) post) : data ≠ [] := by
  rintro rfl
  obtain ⟨earlier, front, back, later, hparts, hplaced⟩ := hr.command (payload := burstPayload c a [])
    (lead := csAssert c ++ [.send c.aSwsid [c.vFifoOn]]) h (by simp)
  refine not_writeEnable_csAssert_suffix c pre c.aCsOn c.aSwsid c.vCsOn c.vFifoOn ⟨shapes earlier.flatten, ?_⟩
  have hfront : front = writeEnable c ++ csAssert c := by
    rw [hparts.front_eq]
    rfl
  rw [← shapes_append, ← hfront]
  exact hplaced.before_eq

theorem Records.flashDelays (hr : Records (programBlocks c n fw) new) : FlashDelays c new := by
  refine ⟨fun pre post h => ?_, fun a pre post h => ?_, fun a data pre post h => ?_⟩
  · exact hr.waits_after_mutation (lead := csAssert c) (payload := [c.opWrsr, c.srUnlock, 0x00]) h (Nat.le_refl 3)
  · exact hr.waits_after_mutation (lead := csAssert c) (payload := c.opSe :: flashAddress a) h (Nat.le_succ 3)
  · have hne := hr.data_ne_nil h
    rw [programCommand_eq c hne] at h
    have hwaits := hr.waits_after_mutation h (Nat.le_trans (by decide) (burst_long c hne a))
    rwa [settleTime_burst c hne] at hwaits

theorem Records.fifoBrackets (hr : Records (programBlocks c n fw) new) : FifoBrackets c new := by
  intro a data pre post hpos hpage h
  have hne := List.length_pos_iff.mp hpos
  have hlong := burst_long c hne a
  have h' : Occurs new pre ([] ++ .send c.aFdata (burstPayload c a data) :: []) post := h
  obtain ⟨earlier, front, back, later, hparts, hplaced⟩ := hr.command h' (Nat.le_trans (by decide) hlong)
  obtain ⟨more, hcut⟩ := hr.after_mutation h' (Nat.le_trans (by decide) hlong)
  rw [leadOut_burst c hne, settleTime_burst c hne] at hcut
  refine ⟨?_, hcut.follows, ?_⟩
  · have hfront : front = writeEnable c ++ csAssert c ++ [.send c.aSwsid [c.vFifoOn]] := by
      rw [hparts.front_eq, leadIn_burst c hne, enabling, if_neg (by omega)]
      simp
    have hbefore := hplaced.before_eq
    rw [shapes_append, hfront, shapes_nil, List.append_nil] at hbefore
    exact ⟨_, hbefore⟩
  · rintro rest rfl
    exact CutShort.waits_after hcut

/-! The writes of one byte, told from each other. -/

/-- The write that sets the FIFO flag is no other write of a command layer whose writes differ. -/
theorem WritesDistinct.fifoOn_ne (h : WritesDistinct c) :
    ∀ w ∈ [(c.aCsOn, c.vCsOn), (c.aCsOff, c.vCsOff), (c.aSwsid, c.vFifoOff), (c.aCpuctl, c.vCpuStop), (c.aClk, c.vClkdiv),
      (c.aPwdn, c.vReset)], (c.aSwsid, c.vFifoOn) ≠ w := by
  simp only [WritesDistinct, List.nodup_cons, List.mem_cons] at h
  grind

/-- The CPU-stop write is no other write of a command layer whose writes differ. -/
theorem WritesDistinct.cpuStop_ne (h : WritesDistinct c) :
    ∀ w ∈ [(c.aCsOn, c.vCsOn), (c.aCsOff, c.vCsOff), (c.aSwsid, c.vFifoOn), (c.aSwsid, c.vFifoOff), (c.aClk, c.vClkdiv),
      (c.aPwdn, c.vReset)], (c.aCpuctl, c.vCpuStop) ≠ w := by
  simp only [WritesDistinct, List.nodup_cons, List.mem_cons] at h
  grind

/-- Of the blocks of `program` only a page program sets the FIFO flag, and its burst comes next. -/
theorem programBlock_fifoOn {front back : List Instr} (hd : WritesDistinct c)
    (h : ProgramBlock c (front ++ .send c.aSwsid [c.vFifoOn] :: back)) :
    ∃ a data, 1 ≤ data.length ∧ data.length ≤ Config.page ∧
      back = [programBurst c a data, .send c.aSwsid [c.vFifoOff]] ++ csDeassert c ++ [.dly Config.tProg] := by
  have hne := hd.fifoOn_ne
  simp only [List.forall_mem_cons, Prod.mk.injEq, ne_eq] at hne
  generalize hb : front ++ .send c.aSwsid [c.vFifoOn] :: back = b at h
  have hmem : .send c.aSwsid [c.vFifoOn] ∈ b := by simp [← hb]
  cases h with
  | haltTurn => exact absurd hmem (by simp [haltTurn, chipReset, cpuStop, hne])
  | configureBusClock => exact absurd hmem (by simp [configureBusClock, cpuStop, hne])
  | wake => exact absurd hmem (by simp [wake, issueOpcode, csAssert, hne])
  | clearProtectStatus =>
    exact absurd hmem (by
      simp [clearProtectStatus, writeEnable, statusWrite, issueOpcode, csAssert, csDeassert, hne])
  | sectorErase a =>
    exact absurd hmem (by
      simp [sectorErase, writeEnable, eraseCommand, issueOpcode, csAssert, csDeassert, flashAddress, hne])
  | @pageProgram a data hdata hpage =>
    have hsplit : pageProgram c a data = writeEnable c ++ csAssert c ++ .send c.aSwsid [c.vFifoOn] ::
        ([programBurst c a data, .send c.aSwsid [c.vFifoOff]] ++ csDeassert c ++ [.dly Config.tProg]) := by
      simp [pageProgram, programCommand]
    rw [hsplit] at hb
    obtain ⟨-, -, rfl⟩ := (List.append_cons_inj_of_notMem
      (by simp [writeEnable, issueOpcode, csAssert, hne]) (by simp [programBurst, flashAddress, csDeassert, hne])).mp hb.symm
    exact ⟨a, data, List.length_pos_iff.mpr hdata, hpage, rfl⟩
  | chipReset => exact absurd hmem (by simp [chipReset, hne])

/-- Of the blocks of `program` only a turn of the halt loop, which then waits, and the bus clock stop the CPU. -/
theorem programBlock_cpuStop {front back : List Instr} (hd : WritesDistinct c)
    (h : ProgramBlock c (front ++ .send c.aCpuctl [c.vCpuStop] :: back)) :
    back = [.dly Config.tHalt] ∨ front = [.send c.aClk [c.vClkdiv]] := by
  have hne := hd.cpuStop_ne
  simp only [List.forall_mem_cons, Prod.mk.injEq, ne_eq] at hne
  generalize hb : front ++ .send c.aCpuctl [c.vCpuStop] :: back = b at h
  have hmem : .send c.aCpuctl [c.vCpuStop] ∈ b := by simp [← hb]
  cases h with
  | haltTurn =>
    have hsplit : haltTurn c = chipReset c ++ .send c.aCpuctl [c.vCpuStop] :: [.dly Config.tHalt] := rfl
    rw [hsplit] at hb
    obtain ⟨-, -, rfl⟩ := (List.append_cons_inj_of_notMem (by simp [chipReset, hne]) (by simp)).mp hb.symm
    exact .inl rfl
  | configureBusClock =>
    have hsplit : configureBusClock c = [.send c.aClk [c.vClkdiv]] ++ .send c.aCpuctl [c.vCpuStop] :: [] := rfl
    rw [hsplit] at hb
    obtain ⟨rfl, -, -⟩ := (List.append_cons_inj_of_notMem (by simp [hne]) (by simp)).mp hb.symm
    exact .inr rfl
  | wake => exact absurd hmem (by simp [wake, issueOpcode, csAssert, hne])
  | clearProtectStatus =>
    exact absurd hmem (by
      simp [clearProtectStatus, writeEnable, statusWrite, issueOpcode, csAssert, csDeassert, hne])
  | sectorErase a =>
    exact absurd hmem (by
      simp [sectorErase, writeEnable, eraseCommand, issueOpcode, csAssert, csDeassert, flashAddress, hne])
  | pageProgram a _ _ =>
    exact absurd hmem (by
      simp [pageProgram, writeEnable, programCommand, programBurst, issueOpcode, csAssert, csDeassert, flashAddress, hne])
  | chipReset => exact absurd hmem (by simp [chipReset, hne])

theorem Records.fifoNotLeftSet (hr : Records (programBlocks c n fw) new) (hd : WritesDistinct c) : FifoNotLeftSet c new := by
  intro pre post h
  obtain ⟨earlier, front, back, later, hplaced⟩ := hr.placed (lead := []) (tail := []) h
  obtain ⟨a, data, hpos, hpage, rfl⟩ := programBlock_fifoOn hd (programBlocks_block c n fw _ hplaced.block)
  refine ⟨a, data, hpos, hpage, ?_⟩
  have hcut := hplaced.after_cut
  rw [shapes_append, shapes_append, List.append_assoc] at hcut
  exact hcut.follows

theorem Records.haltCadence (hr : Records (programBlocks c n fw) new) (hd : WritesDistinct c) : HaltCadence c new := by
  intro pre post h
  obtain ⟨earlier, front, back, later, hplaced⟩ := hr.placed (lead := chipReset c) (tail := []) h
  obtain rfl | rfl := programBlock_cpuStop hd (programBlocks_block c n fw _ hplaced.block)
  · exact CutShort.waits hplaced.after_cut
  · have hbefore := hplaced.before_eq
    rw [shapes_append] at hbefore
    have hlast := (List.append_inj' hbefore rfl).2
    have hframe : encTransaction Config.line c.aClk [c.vClkdiv] = encTransaction Config.line c.aPwdn [c.vReset] :=
      (Event.write.inj (List.cons.inj hlast).1).2
    obtain ⟨haddr, hbyte⟩ := encTransaction_injective (by simp) hframe
    simp [WritesDistinct, haddr, (List.cons.inj hbyte).1] at hd

end Duties

/-- Settles O58: the burst and the write that sets the flag each stand in a page program, whose operations surround them. -/
theorem programBracketsTheBurst : Obligations.ProgramBracketsTheBurst := by
  intro c dur n t0 fw s hready
  obtain ⟨e, new, hrun, hhist, hr⟩ := runProgram_records c dur n t0 fw hready
  exact ⟨e, new, hrun, hhist, hr.fifoBrackets, hr.fifoNotLeftSet⟩

end Sys2Proof.Safety
end

section
/-! SUPPORT. What of `program` goes before a flash command: the halt loop and the bus clock, then flash commands of which the wake
is the first (70_reset_and_hazards.md R176), and before a burst the erase of its sector (R175). -/

namespace Sys2Proof.Safety

open Sys2Proof.Machine

section Order

variable {c : CommandConstants} {n : Nat} {fw : List Byte} {new pre post : List Event}

/-! The halt loop and the bus clock come first. -/

/-- A flash command stands between the bus clock and the chip reset. -/
theorem exists_flashBlock {earlier later : List (List Instr)} {b : List Instr} {addr : Addr} {payload : List Byte}
    (h : programBlocks c n fw = earlier ++ b :: later) (hmem : .send addr payload ∈ b) (hlen : 2 ≤ payload.length) :
    ∃ between after, earlier = seizeBlocks c n ++ between ∧ wake c :: flashBlocks c fw = between ++ b :: after := by
  have hshort (hs : ∀ i ∈ b, i.operands.length < 2) : False := absurd (hs _ hmem) (Nat.not_lt_of_le hlen)
  obtain ⟨mid, hmid, -⟩ | ⟨between, rfl, hreset⟩ := append_eq_append_cons h
  · obtain ⟨late, hseize, -⟩ | ⟨between, rfl, hflash⟩ := append_eq_append_cons hmid
    · have hb : b ∈ seizeBlocks c n := by rw [hseize]; simp
      obtain hhalt | hclock := List.mem_append.mp hb
      · obtain rfl := List.eq_of_mem_replicate hhalt
        exact (hshort (by simp [haltTurn, chipReset, cpuStop, Instr.operands])).elim
      · obtain rfl := List.mem_singleton.mp hclock
        exact (hshort (by simp [configureBusClock, cpuStop, Instr.operands])).elim
    · exact ⟨between, mid, rfl, hflash⟩
  · have hb : b ∈ [chipReset c] := by rw [hreset]; simp
    obtain rfl := List.mem_singleton.mp hb
    exact (hshort (by simp [chipReset, Instr.operands])).elim

/-! Each block of the flashing is flash commands and delays. -/

/-- The writes of the operations are those of flash commands. -/
def OnlyCommands (c : CommandConstants) (ops : List Instr) : Prop :=
  ∃ commands : List (List Instr), (∀ b ∈ commands, FlashCommand c b) ∧
    writesOf (shapes ops) = writesOf (shapes commands.flatten)

namespace OnlyCommands

theorem of_command {ops : List Instr} (h : FlashCommand c ops) : OnlyCommands c ops :=
  ⟨[ops], by simpa using h, by simp⟩

theorem delay (ms : Addr) : OnlyCommands c [.dly ms] := ⟨[], by simp, rfl⟩

theorem append {l m : List Instr} (hl : OnlyCommands c l) (hm : OnlyCommands c m) : OnlyCommands c (l ++ m) := by
  obtain ⟨commands, hcommands, hwrites⟩ := hl
  obtain ⟨more, hmore, hwrites'⟩ := hm
  exact ⟨commands ++ more, List.forall_mem_append.mpr ⟨hcommands, hmore⟩, by simp [hwrites, hwrites']⟩

theorem flatten {blocks : List (List Instr)} (h : ∀ b ∈ blocks, OnlyCommands c b) : OnlyCommands c blocks.flatten := by
  induction blocks with
  | nil => exact ⟨[], by simp, rfl⟩
  | cons b blocks ih =>
    obtain ⟨hb, hblocks⟩ := List.forall_mem_cons.mp h
    exact hb.append (ih hblocks)

/-- A write-enable, its mutation and a delay. -/
theorem mutation {ops : List Instr} (h : FlashMutation c ops) (ms : Addr) :
    OnlyCommands c (writeEnable c ++ ops ++ [.dly ms]) :=
  ((of_command .writeEnable).append (of_command (.mutation h))).append (delay ms)

end OnlyCommands

theorem flashBlocks_onlyCommands (c : CommandConstants) (fw : List Byte) : ∀ b ∈ flashBlocks c fw, OnlyCommands c b :=
  flashBlocks_induct (.mutation .status _) (fun a => .mutation (.erase a) _) (fun a data _ _ => .mutation (.program a data) _) fw

theorem enabling_commands (c : CommandConstants) (len : Nat) : ∀ b ∈ enabling c len, FlashCommand c b := by
  rw [enabling]
  split
  · simp
  · simpa using FlashCommand.writeEnable

/-- What `program` has carried out before a flash command with a payload of `len` bytes and its lead-in: the halt loop and the
bus clock, whole blocks of the flashing, and the write-enable of a mutation. -/
theorem Records.before_command (hr : Records (programBlocks c n fw) new) {addr : Addr} {payload : List Byte} {tail : List Instr}
    (h : Occurs new pre (leadIn c payload.length ++ .send addr payload :: tail) post) (hlen : 2 ≤ payload.length) :
    ∃ between b after, wake c :: flashBlocks c fw = between ++ b :: after ∧ .send addr payload ∈ b ∧
      pre = shapes ((seizeBlocks c n).flatten ++ between.flatten ++ (enabling c payload.length).flatten) := by
  obtain ⟨earlier, front, back, later, hparts, hplaced⟩ := hr.command h hlen
  have hmem : .send addr payload ∈ front ++ .send addr payload :: back := by simp
  obtain ⟨between, after, rfl, hflash⟩ := exists_flashBlock hplaced.blocks_eq hmem hlen
  refine ⟨between, _, after, hflash, hmem, ?_⟩
  have hbefore := hplaced.before_eq
  rw [hparts.front_eq, ← List.append_assoc, shapes_append, List.flatten_append] at hbefore
  exact (List.append_cancel_right hbefore).symm

/-- What `program` writes before a flash command with a payload of `len` bytes and its lead-in: the halt loop, the bus clock and
flash commands, the wake first of them if the command is a mutation. -/
theorem Records.seized (hr : Records (programBlocks c n fw) new) (dur : Nat) {addr : Addr} {payload : List Byte} {tail : List Instr}
    (h : Occurs new pre (leadIn c payload.length ++ .send addr payload :: tail) post) (hlen : 2 ≤ payload.length) :
    ∃ before : List (List Instr), (∀ b ∈ before, FlashCommand c b) ∧
      writesOf pre = writesOf (shapes (forceHalt c dur n ++ configureBusClock c ++ before.flatten)) ∧
      (3 ≤ payload.length → before.head? = some (wake c)) := by
  obtain ⟨between, b, after, hflash, hmem, hpre⟩ := hr.before_command h hlen
  rw [seizeBlocks_flatten c dur] at hpre
  cases between with
  | nil =>
    refine ⟨enabling c payload.length, enabling_commands c _, by rw [hpre]; simp, fun hthree => ?_⟩
    rw [← (List.cons.inj hflash).1] at hmem
    exact absurd (wake_short c _ hmem) (Nat.not_le_of_lt hthree)
  | cons first between =>
    obtain ⟨rfl, hblocks⟩ := List.cons.inj hflash
    obtain ⟨commands, hcommands, hwrites⟩ := OnlyCommands.flatten (blocks := between)
      (fun b hb => flashBlocks_onlyCommands c fw b (by simp [hblocks, hb]))
    refine ⟨wake c :: commands ++ enabling c payload.length, ?_, ?_, fun _ => rfl⟩
    · exact List.forall_mem_append.mpr ⟨List.forall_mem_cons.mpr ⟨.wake, hcommands⟩, enabling_commands c _⟩
    · rw [hpre]
      simp [hwrites]

theorem FlashMutation.three_le_length {ops : List Instr} (h : FlashMutation c ops) : 3 ≤ ops.length := by
  cases h with
  | status => exact Nat.le_refl 3
  | erase a => exact Nat.le_refl 3
  | program a data => exact Nat.le_add_left 3 2

/-- Each flash command is its lead-in, its payload, of 3 bytes or more for a mutation, and what follows. -/
theorem Records.command_split (hr : Records (programBlocks c n fw) new) {ops : List Instr} (hcommand : FlashCommand c ops)
    (h : Occurs new pre ops post) :
    ∃ addr payload tail, ops = leadIn c payload.length ++ .send addr payload :: tail ∧ 2 ≤ payload.length ∧
      (FlashMutation c ops → 3 ≤ payload.length) := by
  cases hcommand with
  | mutation hmutation =>
    cases hmutation with
    | status => exact ⟨c.aFdata, [c.opWrsr, c.srUnlock, 0x00], csDeassert c, rfl, by simp, fun _ => Nat.le_refl 3⟩
    | erase a => exact ⟨c.aFdata, c.opSe :: flashAddress a, csDeassert c, rfl, Nat.le_add_left 2 2, fun _ => Nat.le_succ 3⟩
    | program a data =>
      have hne := hr.data_ne_nil h
      have hlong := burst_long c hne a
      exact ⟨c.aFdata, burstPayload c a data, _, programCommand_eq c hne a, by omega, fun _ => by omega⟩
  | writeEnable =>
    exact ⟨c.aFdata, [c.opWren, c.vCsOff], [], rfl, Nat.le_refl 2, fun hmutation =>
      absurd hmutation.three_le_length (by simp [writeEnable, issueOpcode, csAssert])⟩
  | wake =>
    exact ⟨c.aFdata, [c.opWake, c.vCsOff], [], rfl, Nat.le_refl 2, fun hmutation =>
      absurd hmutation.three_le_length (by simp [wake, issueOpcode, csAssert])⟩

/-- An event that is no failure is one of the expected. -/
theorem CutShort.mem_expected {expected events : List Event} {e : Event} (h : CutShort expected events)
    (he : isFail e = false) (hmem : e ∈ events) : e ∈ expected := by
  obtain ⟨before, after, rfl⟩ := List.append_of_mem hmem
  exact (h.prefix_expected (l := before) he ⟨after, by simp⟩).subset (by simp)

/-- Operations of the command layer open no session. -/
theorem Records.sinceOpen_eq {blocks : List (List Instr)} {ops : List Instr} (hr : Records blocks new)
    (h : Occurs new pre ops post) : sinceOpen pre = pre := by
  refine sinceOpen_of_no_open pre ?_
  rintro e he rfl
  have hmem : .opened ∈ new.map shape := by rw [h]; simp [he]
  obtain ⟨i, hi, hopened⟩ := List.mem_flatMap.mp (hr.cut.mem_expected rfl hmem)
  have hlayer := hr.layer i hi
  cases i with
  | send addr payload => simp [opShapes] at hopened
  | dly ms => simp [opShapes] at hopened
  | encb _ => exact hlayer
  | enct _ _ => exact hlayer
  | txw _ => exact hlayer
  | txf => exact hlayer
  | txo => exact hlayer
  | txc => exact hlayer

/-! Each sector is erased before it is programmed. -/

/-- The address of the sector in which an address lies (70_reset_and_hazards.md R175). -/
def sectorAddress (a : Addr) : Addr := BitVec.ofNat 24 (sectorOf a.toNat)

/-- The sector of page `k` begins at page `16 * (k / 16)`, also where the addresses wrap around at 2^24 (log 23). -/
theorem sectorAddress_page (k : Nat) :
    sectorAddress (BitVec.ofNat 24 (256 * k)) = BitVec.ofNat 24 (256 * (16 * (k / 16))) := by
  apply BitVec.eq_of_toNat_eq
  simp [sectorAddress, sectorOf, Config.sector]
  omega

/-- Before each block with a burst stands the erase of the burst's sector. -/
def ErasesFirst (c : CommandConstants) (blocks : List (List Instr)) : Prop :=
  ∀ earlier b later, blocks = earlier ++ b :: later → ∀ a data, data ≠ [] → programBurst c a data ∈ b →
    sectorErase c (sectorAddress a) ∈ earlier

/-- A burst has more than 4 bytes. -/
theorem burst_not_mem {ops : List Instr} {data : List Byte} (hne : data ≠ []) (a : Addr)
    (h : ∀ i ∈ ops, i.operands.length ≤ 4) : programBurst c a data ∉ ops :=
  fun hmem => absurd (h _ hmem) (Nat.not_le_of_lt (burst_long c hne a))

/-- A block without a burst may stand before. -/
theorem ErasesFirst.cons {first : List Instr} {blocks : List (List Instr)}
    (hfirst : ∀ i ∈ first, i.operands.length ≤ 4) (h : ErasesFirst c blocks) : ErasesFirst c (first :: blocks) := by
  intro earlier b later hblocks a data hne hmem
  cases earlier with
  | nil =>
    obtain ⟨rfl, -⟩ := List.cons.inj hblocks
    exact absurd hmem (burst_not_mem hne a hfirst)
  | cons e earlier => exact List.mem_cons_of_mem _ (h earlier b later (List.cons.inj hblocks).2 a data hne hmem)

theorem sectorErase_short (c : CommandConstants) (a : Addr) : ∀ i ∈ sectorErase c a, i.operands.length ≤ 4 := by
  simp [sectorErase, writeEnable, eraseCommand, issueOpcode, csAssert, csDeassert, flashAddress, Instr.operands]

/-- The burst of a page program is for its own address. -/
theorem burst_of_pageProgram {a a' : Addr} {data data' : List Byte}
    (h : programBurst c a data ∈ pageProgram c a' data') : a = a' := by
  have hflash : flashAddress a ++ data = flashAddress a' ++ data' := by
    simpa [pageProgram, writeEnable, programCommand, programBurst, issueOpcode, csAssert, csDeassert, flashAddress] using h
  exact flashAddress_injective (List.append_inj hflash rfl).1

theorem erase_mem_turnBlocks (c : CommandConstants) (fw : List Byte) {k : Nat} (h : k % 16 = 0) :
    sectorErase c (BitVec.ofNat 24 (256 * k)) ∈ turnBlocks c fw k := by
  rw [turnBlocks, if_pos h]
  exact List.mem_cons_self

/-- The loop erases a sector before it programs the first of its pages. -/
theorem turns_eraseFirst (c : CommandConstants) (fw : List Byte) (m : Nat) :
    ErasesFirst c ((List.range m).flatMap (turnBlocks c fw)) := by
  induction m with
  | zero => simp [ErasesFirst]
  | succ m ih =>
    intro earlier b later hblocks a data hne hmem
    rw [List.range_succ, List.flatMap_append, List.flatMap_singleton] at hblocks
    obtain ⟨mid, hbefore, -⟩ | ⟨mid, rfl, hturn⟩ := append_eq_append_cons hblocks
    · exact ih earlier b mid hbefore a data hne hmem
    · rw [turnBlocks] at hturn
      obtain ⟨rest, herase, -⟩ | ⟨rest, rfl, hpage⟩ := append_eq_append_cons hturn
      · have hb : b ∈ if m % 16 = 0 then [sectorErase c (BitVec.ofNat 24 (256 * m))] else [] := by rw [herase]; simp
        split at hb
        · exact absurd (List.mem_singleton.mp hb ▸ hmem) (burst_not_mem hne a (sectorErase_short c _))
        · simp at hb
      · have hb : b ∈ [pageProgram c (BitVec.ofNat 24 (256 * m)) (chunkAt fw (256 * m))] := by rw [hpage]; simp
        obtain rfl := burst_of_pageProgram (List.mem_singleton.mp hb ▸ hmem)
        rw [sectorAddress_page]
        by_cases hstart : m % 16 = 0
        · rw [show 16 * (m / 16) = m by omega]
          simp [hstart]
        · have hlt : 16 * (m / 16) < m := by omega
          exact List.mem_append_left _ (List.mem_flatMap.mpr
            ⟨16 * (m / 16), List.mem_range.mpr hlt, erase_mem_turnBlocks c fw (Nat.mul_mod_right 16 _)⟩)

/-- The status clears hold no burst, so the whole flashing erases first. -/
theorem flashBlocks_eraseFirst (c : CommandConstants) (fw : List Byte) : ErasesFirst c (wake c :: flashBlocks c fw) := by
  have hwake : ∀ i ∈ wake c, i.operands.length ≤ 4 := fun i hi => (wake_short c i hi).trans (by decide)
  have hclear : ∀ i ∈ clearProtectStatus c, i.operands.length ≤ 4 := by
    simp [clearProtectStatus, writeEnable, statusWrite, issueOpcode, csAssert, csDeassert, Instr.operands]
  have hturns := turns_eraseFirst c fw (pageCount fw)
  rw [flashBlocks]
  split
  · exact hturns.cons hwake
  · exact ((hturns.cons hclear).cons hclear).cons hwake

theorem Records.eraseBeforeProgram (hr : Records (programBlocks c n fw) new) : EraseBeforeProgram c new := by
  intro a data pre post h
  have hne := hr.data_ne_nil h
  have hlong := burst_long c hne a
  obtain ⟨between, b, after, hflash, hmem, rfl⟩ := hr.before_command (payload := burstPayload c a data)
    (programCommand_eq c hne a ▸ h) (by omega)
  obtain ⟨erased, since, rfl⟩ := List.append_of_mem (flashBlocks_eraseFirst c fw _ _ _ hflash a data hne hmem)
  refine ⟨shapes ((seizeBlocks c n).flatten ++ erased.flatten ++ writeEnable c), [.wait Config.tErase.toNat],
    shapes (since.flatten ++ (enabling c (burstPayload c a data).length).flatten), ?_, rfl, List.mem_singleton_self _⟩
  simp [sectorErase, sectorAddress, opShapes]

end Order

/-- Settles O57: what comes before the first flash command is the halt loop and the bus clock of the run, so no earlier run is
needed for the duty. -/
theorem programSeizesTheChipFirst : Obligations.ProgramSeizesTheChipFirst := by
  intro c dur n t0 fw s hready
  obtain ⟨e, new, hrun, hhist, hr⟩ := runProgram_records c dur n t0 fw hready
  have hseized : ∀ ops pre post, FlashCommand c ops → Occurs new pre ops post →
      ∃ before : List (List Instr), (∀ b ∈ before, FlashCommand c b) ∧
        writesOf pre = writesOf (shapes (forceHalt c dur n ++ configureBusClock c ++ before.flatten)) ∧
        (FlashMutation c ops → before.head? = some (wake c)) := by
    intro ops pre post hcommand h
    obtain ⟨addr, payload, tail, hops, hlen, hmutation⟩ := hr.command_split hcommand h
    obtain ⟨before, hbefore, hwrites, hwake⟩ := hr.seized dur (hops ▸ h) hlen
    exact ⟨before, hbefore, hwrites, fun hm => hwake (hmutation hm)⟩
  refine ⟨e, new, hrun, hhist, fun ops pre post hcommand h => ?_, hseized⟩
  obtain ⟨before, hbefore, hwrites, hwake⟩ := hseized ops pre post hcommand h
  exact ⟨[], n, before, by simp, hbefore, by rw [hr.sinceOpen_eq h]; exact hwrites, hwake⟩

/-- Settles O56, from the delay at the end of each block and the place of the erase among the blocks. -/
theorem programErasesAndWaits : Obligations.ProgramErasesAndWaits := by
  intro c dur n t0 fw s hready
  obtain ⟨e, new, hrun, hhist, hr⟩ := runProgram_records c dur n t0 fw hready
  exact ⟨e, new, hrun, hhist, hr.flashDelays, hr.eraseBeforeProgram, fun hd => ⟨hr.flashDelays, hr.haltCadence hd⟩⟩

end Sys2Proof.Safety
end
